-- ==== Sys2Proof/Word.lean ====
section
/-!
DEFINITION. The byte of the sample memory and the signed ranges the spec names by width (spec/00_scope.md R8, R9).

Values are mathematical integers (R8). A register of stated width holds an `Int` (or a `Nat`), and that it stays in
its range is an invariant of the machine (Sys2Proof/Safety.lean): nothing in the model wraps silently.
-/

namespace Sys2Proof

/-- A byte of the sample memory or of a block: 8 bits, bit 0 least significant (R9). -/
abbrev Byte := BitVec 8

/-- `int16`: the signed range of 16 bits (R8). -/
abbrev InInt16 (v : Int) : Prop := -32768 ≤ v ∧ v ≤ 32767

/-- `int17`: the signed range of 17 bits (R8). -/
abbrev InInt17 (v : Int) : Prop := -65536 ≤ v ∧ v ≤ 65535

end Sys2Proof
end

