-- ==== Sys2Proof/Syntax.lean ====
section
/-!
DEFINITION. The abstract syntax: the BRR block and its header (spec/30_encoding.md R70, R71, R74), the configuration
record (spec/10_state.md R26), and `Instr`, one constructor for each of the 12 rows of spec/opcode_table.json.
-/

namespace Sys2Proof

/-- The four decode variants the header's 2-bit `filter` field selects (R77). -/
inductive Filter where
  | f0
  | f1
  | f2
  | f3
  deriving DecidableEq, Repr, Inhabited

/-- The four fields of a header byte (R74): the shift, the filter, the loop flag and the end flag. -/
structure Header where
  shift    : BitVec 4
  filter   : Filter
  loopFlag : Bool
  endFlag  : Bool
  deriving DecidableEq, Repr, Inhabited

/-- The 8 data bytes of a block, `data[0]` to `data[7]` (R71). -/
structure BlockData where
  d0 : Byte
  d1 : Byte
  d2 : Byte
  d3 : Byte
  d4 : Byte
  d5 : Byte
  d6 : Byte
  d7 : Byte
  deriving DecidableEq, Repr, Inhabited

/-- A BRR block as 9 raw bytes: the header byte and the 8 data bytes (R71). -/
structure Block where
  hdr  : Byte
  data : BlockData
  deriving DecidableEq, Repr, Inhabited

/-- The eight fields of the configuration (R26), as a record: it has no address and no packed word layout. The numeric
fields are numbers, so that CONFIG can meet a field outside its range and refuse it (spec/60_exceptions.md R205). -/
structure Cfg where
  attackRate   : Nat
  decayRate    : Nat
  sustainLevel : Nat
  sustainRate  : Nat
  loopStart    : Nat
  loopEnabled  : Bool
  envEnabled   : Bool
  maxFrames    : Nat
  deriving DecidableEq, Repr, Inhabited

/-- The configuration with every field 0 (the reset values of R26, R220). -/
def Cfg.zero : Cfg :=
  { attackRate := 0, decayRate := 0, sustainLevel := 0, sustainRate := 0,
    loopStart := 0, loopEnabled := false, envEnabled := false, maxFrames := 0 }

/-- The instructions (spec/00_scope.md R2): the BRR block, whose header selects one of four decode variants, and the
eight host commands. CONFIG carries the record on `CFG_IN`, DECODE the byte list on `DEC_IN` (R73); no other command
has an operand. -/
inductive Instr where
  /-- BRR.F0, a block whose filter field is 0 (spec/40_brr_decode.md R110). -/
  | brrF0 (shift : BitVec 4) (loopFlag endFlag : Bool) (data : BlockData)
  /-- BRR.F1, a block whose filter field is 1 (R111). -/
  | brrF1 (shift : BitVec 4) (loopFlag endFlag : Bool) (data : BlockData)
  /-- BRR.F2, a block whose filter field is 2 (R112). -/
  | brrF2 (shift : BitVec 4) (loopFlag endFlag : Bool) (data : BlockData)
  /-- BRR.F3, a block whose filter field is 3 (R113). -/
  | brrF3 (shift : BitVec 4) (loopFlag endFlag : Bool) (data : BlockData)
  /-- RESET (spec/70_reset_and_hazards.md R220). -/
  | reset
  /-- CONFIG (spec/42_stream.md R171). -/
  | config (cfgIn : Cfg)
  /-- START (R172). -/
  | start
  /-- STEP (R174). -/
  | step
  /-- KEY_ON (spec/41_envelope.md R141). -/
  | keyOn
  /-- KEY_OFF (R142). -/
  | keyOff
  /-- ENV_TICK (R153). -/
  | envTick
  /-- DECODE (spec/40_brr_decode.md R115). -/
  | decode (decIn : List Byte)
  deriving DecidableEq, Repr

end Sys2Proof
end

