-- ==== Sys2Proof/WellFormed.lean ====
section
/-!
DEFINITION. Which instructions are well formed: CONFIG's record within the ranges of spec/10_state.md R26, DECODE's
operand exactly 9 bytes (spec/30_encoding.md R73). The two widths are the launch parameters `ADDR_W` and `FRAME_W`
(spec/00_scope.md R7).
-/

namespace Sys2Proof

/-- Every field of the record within its legal values (R26). -/
def Cfg.wellFormed (addrW frameW : Nat) (c : Cfg) : Bool :=
  decide (c.attackRate ≤ 15) && decide (c.decayRate ≤ 7) && decide (c.sustainLevel ≤ 7) &&
  decide (c.sustainRate ≤ 31) && decide (c.loopStart < 2 ^ addrW) && decide (c.maxFrames < 2 ^ frameW)

/-- An instruction is well formed. A block and a command without operand always are (R78, R79). -/
def Instr.wellFormed (addrW frameW : Nat) : Instr → Bool
  | .brrF0 _ _ _ _ => true
  | .brrF1 _ _ _ _ => true
  | .brrF2 _ _ _ _ => true
  | .brrF3 _ _ _ _ => true
  | .reset         => true
  | .config c      => c.wellFormed addrW frameW
  | .start         => true
  | .step          => true
  | .keyOn         => true
  | .keyOff        => true
  | .envTick       => true
  | .decode bytes  => decide (bytes.length = 9)

end Sys2Proof
end

