-- ==== Sys2Proof/Decode.lean ====
section
/-!
DEFINITION. The two formats (spec/30_encoding.md R70): the header byte (R74), the block of 9 bytes (R71), the 3-bit
command code (R72), the decoder of each, and the encoder written from the same tables.
-/

namespace Sys2Proof

/-! ### The header byte (R74) -/

/-- The `filter` field selects the decode variant (R77). -/
def filterOfBits (b : BitVec 2) : Filter :=
  if b = 0 then .f0 else if b = 1 then .f1 else if b = 2 then .f2 else .f3

/-- The 2-bit value of a variant (R77). -/
def filterBits : Filter → BitVec 2
  | .f0 => 0
  | .f1 => 1
  | .f2 => 2
  | .f3 => 3

/-- `HDR_LAYOUT`, the value R7 gives for this hardware: shift in bits 7:4, filter in 3:2, loop in 1, end in 0 (R74).
PRESUMED (log 1): the spec supplies the positions from general knowledge; unsafe. -/
def headerFields (b : Byte) : Header :=
  { shift := b.extractLsb' 4 4, filter := filterOfBits (b.extractLsb' 2 2),
    loopFlag := b.getLsbD 1, endFlag := b.getLsbD 0 }

/-- The header byte of four fields, under the same layout. -/
def headerByte (h : Header) : Byte :=
  h.shift ++ filterBits h.filter ++ BitVec.ofBool h.loopFlag ++ BitVec.ofBool h.endFlag

/-! ### The block of 9 bytes (R71) -/

/-- A block from its bytes in increasing address order; nothing for any other length. -/
def Block.ofBytes : List Byte → Option Block
  | [h, b0, b1, b2, b3, b4, b5, b6, b7] => some ⟨h, ⟨b0, b1, b2, b3, b4, b5, b6, b7⟩⟩
  | _ => none

/-- The 9 bytes of a block, header first. -/
def Block.toBytes (b : Block) : List Byte :=
  [b.hdr, b.data.d0, b.data.d1, b.data.d2, b.data.d3, b.data.d4, b.data.d5, b.data.d6, b.data.d7]

/-- The instruction of a block: its header's filter field selects one of BRR.F0 to BRR.F3 (R77). Every one of the 256
header values decodes (R78). -/
def blockInstr (b : Block) : Instr :=
  let h := headerFields b.hdr
  match h.filter with
  | .f0 => .brrF0 h.shift h.loopFlag h.endFlag b.data
  | .f1 => .brrF1 h.shift h.loopFlag h.endFlag b.data
  | .f2 => .brrF2 h.shift h.loopFlag h.endFlag b.data
  | .f3 => .brrF3 h.shift h.loopFlag h.endFlag b.data

/-! ### The command (R72, R73) -/

/-- The command of a code `CMD[2:0]`, with the values that stand on `CFG_IN` and `DEC_IN`. All eight codes are defined
(R72). -/
def decodeCommand (code : BitVec 3) (cfgIn : Cfg) (decIn : List Byte) : Instr :=
  match code.getLsbD 2, code.getLsbD 1, code.getLsbD 0 with
  | false, false, false => .reset
  | false, false, true  => .config cfgIn
  | false, true,  false => .start
  | false, true,  true  => .step
  | true,  false, false => .keyOn
  | true,  false, true  => .keyOff
  | true,  true,  false => .envTick
  | true,  true,  true  => .decode decIn

/-! ### Both formats -/

/-- What the core decodes: a block's bytes, or a command code with the values on the two operand ports (R70, R73). -/
inductive Wire where
  | block   (bytes : List Byte)
  | command (code : BitVec 3) (cfgIn : Cfg) (decIn : List Byte)
  deriving DecidableEq, Repr

/-- Why a decoder rejects: the bytes are not one block. There is no other reason (R78, R79). -/
inductive DecodeError where
  /-- A block is exactly 9 bytes, and these are `n`. -/
  | blockLength (n : Nat)
  deriving DecidableEq, Repr

/-- The decoder, total on any bytes and any code. -/
def decode : Wire → Except DecodeError Instr
  | .block bytes =>
    match Block.ofBytes bytes with
    | some b => .ok (blockInstr b)
    | none   => .error (.blockLength bytes.length)
  | .command code cfgIn decIn => .ok (decodeCommand code cfgIn decIn)

/-- Nine bytes of zero: what the encoder leaves on `DEC_IN` where the command does not read it. -/
def zeroBlockBytes : List Byte := [0, 0, 0, 0, 0, 0, 0, 0, 0]

/-- The bytes of a block written by fields (R81's expansion). -/
def encodeBlock (h : Header) (d : BlockData) : Wire := .block (Block.toBytes ⟨headerByte h, d⟩)

/-- The encoder, from the same tables (R71, R72, R74). A port the command does not read holds zeros. -/
def encode : Instr → Wire
  | .brrF0 shift l e data => encodeBlock ⟨shift, .f0, l, e⟩ data
  | .brrF1 shift l e data => encodeBlock ⟨shift, .f1, l, e⟩ data
  | .brrF2 shift l e data => encodeBlock ⟨shift, .f2, l, e⟩ data
  | .brrF3 shift l e data => encodeBlock ⟨shift, .f3, l, e⟩ data
  | .reset        => .command 0b000 Cfg.zero zeroBlockBytes
  | .config cfgIn => .command 0b001 cfgIn zeroBlockBytes
  | .start        => .command 0b010 Cfg.zero zeroBlockBytes
  | .step         => .command 0b011 Cfg.zero zeroBlockBytes
  | .keyOn        => .command 0b100 Cfg.zero zeroBlockBytes
  | .keyOff       => .command 0b101 Cfg.zero zeroBlockBytes
  | .envTick      => .command 0b110 Cfg.zero zeroBlockBytes
  | .decode decIn => .command 0b111 Cfg.zero decIn

/-! ### The opcode table's words

The table holds two formats that stand on different ports, and each row's word is given as at most one byte. A word of
at most 8 bits below 8 is read as a command code, anything else as a block, header byte first (log 15). -/

/-- A table word that is a command code. -/
def isCommandWord (nbits w : Nat) : Bool := decide (nbits ≤ 8) && decide (w < 8)

/-- The bytes of a table word, first byte lowest, filled up with zero bytes to the 9 bytes of a block. -/
def tableBytes (nbits w : Nat) : List Byte :=
  (List.range (max 9 ((nbits + 7) / 8))).map fun k => BitVec.ofNat 8 ((w % 2 ^ nbits) >>> (8 * k))

/-- A table word laid out on the ports: operand ports hold zeros. -/
def tableWire (nbits w : Nat) : Wire :=
  if isCommandWord nbits w then .command (BitVec.ofNat 3 w) Cfg.zero zeroBlockBytes
  else .block (tableBytes nbits w)

/-- The instruction the decoder reads from a table word, none where it refuses. -/
def decodeTableWord (nbits w : Nat) : Option Instr :=
  match decode (tableWire nbits w) with
  | .ok i    => some i
  | .error _ => none

end Sys2Proof
end

