-- ==== Sys2Proof/Config.lean ====
section
/-!
DEFINITION. The parameters the spec's source leaves open (spec/00_scope.md R7, R13; spec/93_implementation_defined.md
I1 to I4) and the free values.

The arithmetic of the model takes a `Params` as an argument, so that a claim can be stated for every reading the source
allows; the values R7 gives for this hardware are `Sys2Proof.Machine.params` (Sys2Proof/Machine/Operands.lean), and
that is the `Params` the instructions use. The parameters `L`, `ADDR_W` and `FRAME_W` are plain numbers and stand in
State.
-/

namespace Sys2Proof

/-- The functional parameters of R7. An exact rational `q` is given to a rounding as numerator and positive
denominator. -/
structure Params where
  /-- `HDR_LAYOUT`: where the four header fields stand in the header byte. -/
  layout      : Byte → Header
  /-- `HI_SHIFT`: the result of the shift stage for shift 13, 14 and 15. -/
  hiShift     : Int → Int
  /-- `FILTER_ROUND`: the filter term's rounding of `num / den`. -/
  filterRound : Int → Int → Int
  /-- `GAIN_ROUND`: the conversion of the gain product `num / den`. -/
  gainRound   : Int → Int → Int

/-- What R13 says of every `FILTER_ROUND`: a function of the rational alone, at most 1/2 away from it, and exact on
integers. -/
structure FilterRoundAllowed (R : Int → Int → Int) : Prop where
  near    : ∀ n d : Int, 0 < d → 2 * (R n d * d - n) ≤ d ∧ -d ≤ 2 * (R n d * d - n)
  exact   : ∀ k d : Int, 0 < d → R (k * d) d = k
  ofValue : ∀ n d k : Int, 0 < d → 0 < k → R (k * n) (k * d) = R n d

/-- What R13 says of every `GAIN_ROUND`: a function of the rational alone, less than 1 away from it, and exact on
integers. -/
structure GainRoundAllowed (R : Int → Int → Int) : Prop where
  near    : ∀ n d : Int, 0 < d → R n d * d - n < d ∧ -d < R n d * d - n
  exact   : ∀ k d : Int, 0 < d → R (k * d) d = k
  ofValue : ∀ n d k : Int, 0 < d → 0 < k → R (k * n) (k * d) = R n d

/-- What R104 says of every `HI_SHIFT`: its result depends on the unit only through `u < 0`. -/
abbrev HiShiftAllowed (f : Int → Int) : Prop := ∀ u v : Int, (u < 0 ↔ v < 0) → f u = f v

/-- The parameters the source allows (R13, R104). Every header layout is admitted. -/
structure Params.Allowed (P : Params) : Prop where
  hiShift     : HiShiftAllowed P.hiShift
  filterRound : FilterRoundAllowed P.filterRound
  gainRound   : GainRoundAllowed P.gainRound

/-- FREE VALUE: what `BLK` holds after a RESET command, which the spec leaves "unspecified" (spec/70_reset_and_hazards.md
R220; spec/10_state.md R31; I5 "any value"). It has no body: nothing can evaluate it or prove a value of it. Its
argument is the counter `draws` of State. DESIGN CHOICE (log 6), safe. -/
opaque Config.freeBlock : Nat → Block

end Sys2Proof
end

