-- ==== Sys2Proof/Machine/State.lean ====
section
/-!
DEFINITION. The state of one core instance (spec/10_state.md R20), its inputs, the faults and refusals, and the state
right after reset (spec/70_reset_and_hazards.md R220, R221).
-/

namespace Sys2Proof.Machine

/-! ### The registers -/

/-- `HIST`, the predictive-filter history: the last clamped decoded sample and the one before it, int16 each (R22). -/
structure Hist where
  prev1 : Int
  prev2 : Int
  deriving DecidableEq, Repr, Inhabited

/-- `ENV.phase` (R24). -/
inductive Phase where
  | attack
  | decay
  | sustain
  | release
  deriving DecidableEq, Repr, Inhabited

/-- `ENV`, the envelope generator: the phase and the level, 0..2047 (R24, R25). -/
structure Env where
  phase : Phase
  level : Nat
  deriving DecidableEq, Repr, Inhabited

/-- `SEQ.status` (R33). The codes 5, 6 and 7 are never produced, so they have no constructor. -/
inductive Status where
  /-- No stream has been started since RESET. -/
  | idle
  /-- A stream is active. -/
  | running
  /-- END: the stream ended at an end-flagged block that does not loop. -/
  | ended
  /-- CAP: a looping-enabled stream reached `max_frames`. -/
  | cap
  /-- EXHAUSTED: fewer than 9 bytes remain at the cursor. -/
  | exhausted
  deriving DecidableEq, Repr, Inhabited

/-- `SEQ`, the sequencer registers (R28, R29, R30, R33). The cursor plays the part of a program counter. Cursor and
frame counter are numbers that do not wrap (log 12). -/
structure Seq where
  cursor : Nat
  unit   : Fin 16
  frames : Nat
  status : Status
  deriving DecidableEq, Repr, Inhabited

/-! ### The inputs -/

/-- The sample memory `MEM` and its length `L` (spec/20_memory.md R50): the bytes at offsets `0 .. len - 1`. A cell
that is not listed holds `Memory.unlisted`. -/
structure Memory where
  cells : List Host.Cell
  len   : Nat
  deriving DecidableEq, Repr, Inhabited

/-- What an offset below `L` that no cell lists reads as. With it, a list of cells and a length stand for every byte
array of that length. DESIGN CHOICE (log 11). -/
def Memory.unlisted : Byte := 0

/-- The cells from offset `lo` on: addresses strictly rising and below `len`, no cell equal to the unlisted byte. -/
def Memory.cellsWf (len : Nat) : Nat → List Host.Cell → Bool
  | _,  [] => true
  | lo, (a, v) :: rest =>
    decide (lo ≤ a) && decide (a < len) && decide (v ≠ Memory.unlisted) && Memory.cellsWf len (a + 1) rest

/-- The canonical form: equal memories are equal data. -/
def Memory.wf (m : Memory) : Bool := Memory.cellsWf m.len 0 m.cells

/-- One move of the host (spec/00_scope.md R6; spec/70_reset_and_hazards.md R222): it presents a sample memory, or it
issues one command with the values it puts on `CFG_IN` and `DEC_IN` (R36, R73). DESIGN CHOICE (log 8). -/
inductive HostMove where
  | present (bytes : List Byte)
  | command (code : BitVec 3) (cfgIn : Cfg) (decIn : List Byte)
  deriving DecidableEq, Repr

/-! ### The state -/

/-- The state of one core instance (R20), then its inputs and launch parameters (R7, R36), then the model's own
counter of free values. -/
structure State where
  /-- `HIST` (R22). -/
  hist   : Hist
  /-- `ENV` (R24, R25). -/
  env    : Env
  /-- `CFG`, latched (R26, R27). -/
  cfg    : Cfg
  /-- `SEQ` (R28 to R30, R33). -/
  seq    : Seq
  /-- `BLK`, the latched current block (R31). -/
  blk    : Block
  /-- `OUT`, the output sequence of the current stream, oldest frame first (R34). -/
  out    : List Int
  /-- `DEC_OUT[0..15]` (R35). -/
  decOut : List Int
  /-- `MEM` and `L`, an input (R50). -/
  mem    : Memory
  /-- `ADDR_W`, a launch parameter (R7). -/
  addrW  : Nat
  /-- `FRAME_W`, a launch parameter (R7). -/
  frameW : Nat
  /-- The host's moves still to come, oldest first (R228; log 8). -/
  host   : List HostMove
  /-- The model's own counter of free values drawn (log 6). -/
  draws  : Nat
  deriving DecidableEq, Repr

/-- The reasons the machine stops with a fault. -/
inductive Fault where
  /-- MalformedBlock, fault code 1 (spec/60_exceptions.md R201): raised by DECODE when its operand is not exactly 9
  bytes; it records the operand's length. Never cleared. Safe: the spec names this fault. -/
  | malformedBlock (length : Nat)
  /-- Raised by STEP when it fetches a block at a cursor with fewer than 9 bytes left, where `MemRead` is not defined
  (spec/00_scope.md R14). Every run keeps `cursor + 9 <= L` while RUNNING (R40), so no run from reset raises it.
  Safe (log 13). -/
  | fetchOutside (cursor : Nat)
  deriving DecidableEq, Repr

/-- The reasons a run is marked refused. -/
inductive Refusal where
  /-- An instruction that has no meaning yet: raised by an arm of `exec` alone, never by a meaning. Safe. -/
  | notModelled (mnemonic : String)
  /-- CONFIG while a stream is RUNNING (R205). Safe: the spec names this refusal. -/
  | configWhileRunning
  /-- CONFIG with a field of `CFG_IN` outside its range (R205, R26). Safe: the spec names this refusal. -/
  | configOutOfRange
  /-- ENV_TICK while a stream is RUNNING (R205). Safe: the spec names this refusal. -/
  | envelopeOwnedByStream
  /-- DECODE while a stream is RUNNING (R205). Safe: the spec names this refusal. -/
  | historyOwnedByStream
  /-- The host presents another memory while a stream is RUNNING: "The model gives the host no move that changes `MEM`
  while `status = RUNNING`" (R225). Raised by a host move, by no instruction. Safe (log 10). -/
  | memWhileRunning
  /-- The host presents a memory longer than `2^ADDR_W` bytes, where R7 has `L <= 2^ADDR_W`. Raised by a host move, by
  no instruction. Safe (log 10). -/
  | memTooLong
  deriving DecidableEq, Repr

/-- The answer of a meaning. -/
abbrev Result := Host.Outcome State Fault Refusal

/-- The state right after reset (R220, R221). The spec gives no value for `BLK`, the widths and the memory presented:
zeros, 64 bits and no memory are DESIGN CHOICES (logs 6, 11, 12), and no host move is pending (log 8). -/
def State.reset : State :=
  { hist := ⟨0, 0⟩
    env := ⟨.attack, 0⟩
    cfg := Cfg.zero
    seq := { cursor := 0, unit := 0, frames := 0, status := .idle }
    blk := ⟨0, ⟨0, 0, 0, 0, 0, 0, 0, 0⟩⟩
    out := []
    decOut := [0, 0, 0, 0, 0, 0, 0, 0, 0, 0, 0, 0, 0, 0, 0, 0]
    mem := ⟨[], 0⟩
    addrW := 64
    frameW := 64
    host := []
    draws := 0 }

end Sys2Proof.Machine
end

