-- ==== Sys2Proof/Machine/Operands.lean ====
section
/-!
DEFINITION. The operands and the arithmetic of one unit: unpack and sign extension (spec/40_brr_decode.md R101, R102),
the shift stage (R103, R104), the filter term (R105, R110 to R113), the clamp (R106), the two roundings
(spec/00_scope.md R16), the parameters of this hardware (R7), and the range check of CONFIG's operand
(spec/10_state.md R26).
-/

namespace Sys2Proof.Machine

/-! ### Primitives (spec/00_scope.md R10 to R12, R16) -/

/-- `sext_4(n)`: `n` for 0..7, `n - 16` for 8..15 (R10). -/
def sext4 (n : BitVec 4) : Int :=
  if n.toNat ≤ 7 then (n.toNat : Int) else (n.toNat : Int) - 16

/-- `x << k`, that is `x * 2^k` (R11). -/
def shl (x : Int) (k : Nat) : Int := x * ((2 ^ k : Nat) : Int)

/-- `x >> k`, the arithmetic right shift `floor(x / 2^k)` (R11); `/` rounds down here, the divisor being positive. -/
def asr (x : Int) (k : Nat) : Int := x / ((2 ^ k : Nat) : Int)

/-- `clamp16(v) = min(32767, max(-32768, v))` (R12). -/
def clamp16 (v : Int) : Int := min 32767 (max (-32768) v)

/-- `rhe(num / den)` for `den > 0`: the nearest integer, and the even one where two are equally near (R16). -/
def rhe (num den : Int) : Int :=
  let q := num / den
  let r := num - q * den
  if 2 * r < den then q
  else if den < 2 * r then q + 1
  else if q % 2 = 0 then q else q + 1

/-- `trunc(num / den)` for `den > 0`: the integer part, rounding toward zero (R16). -/
def trunc (num den : Int) : Int := Int.tdiv num den

/-! ### The parameters of this hardware (spec/00_scope.md R7) -/

/-- The default `HI_SHIFT`: `u < 0 ? -2048 : 0`, the same for shift 13, 14 and 15 (R104). PRESUMED (log 2): the spec
supplies the formula from general knowledge; unsafe. -/
def hiShiftDefault (u : Int) : Int := if u < 0 then -2048 else 0

/-- The values R7 gives for this hardware. PRESUMED (logs 1 to 4); unsafe. -/
def params : Params :=
  { layout := headerFields, hiShift := hiShiftDefault, filterRound := rhe, gainRound := trunc }

/-! ### Unpack and sign extension -/

/-- Data byte `k` of a block, `k = 0..7` (R71). -/
def dataByte (d : BlockData) (k : Nat) : Byte :=
  match k with
  | 0 => d.d0
  | 1 => d.d1
  | 2 => d.d2
  | 3 => d.d3
  | 4 => d.d4
  | 5 => d.d5
  | 6 => d.d6
  | _ => d.d7

/-- The raw unit `n_i`: the high half of data byte `i div 2` when `i` is even, its low half when `i` is odd (R75,
R101). -/
def rawUnit (d : BlockData) (i : Fin 16) : BitVec 4 :=
  if i.val % 2 = 0 then (dataByte d (i.val / 2)).extractLsb' 4 4
  else (dataByte d (i.val / 2)).extractLsb' 0 4

/-- The signed unit `u_i = sext_4(n_i)`, -8..7 (R76, R102). -/
def unitValue (d : BlockData) (i : Fin 16) : Int := sext4 (rawUnit d i)

/-! ### The shift stage -/

/-- `a = Shift(u, shift)`: `(u << shift) >> 1` for shift 0..12 (R103), `HI_SHIFT(u)` for 13..15 (R104). -/
def shiftStage (P : Params) (shift : BitVec 4) (u : Int) : Int :=
  if shift.toNat ≤ 12 then asr (shl u shift.toNat) 1 else P.hiShift u

/-! ### The filter term: one formula for each variant -/

/-- `Term(0, p1, p2) = 0` (R110). -/
def termF0 (_P : Params) (_h : Hist) : Int := 0

/-- `Term(1, p1, p2) = FILTER_ROUND(15*p1 / 16)` (R111). -/
def termF1 (P : Params) (h : Hist) : Int := P.filterRound (15 * h.prev1) 16

/-- `Term(2, p1, p2) = FILTER_ROUND((61*p1 - 30*p2) / 32)` (R112). -/
def termF2 (P : Params) (h : Hist) : Int := P.filterRound (61 * h.prev1 - 30 * h.prev2) 32

/-- `Term(3, p1, p2) = FILTER_ROUND((115*p1 - 52*p2) / 64)` (R113). -/
def termF3 (P : Params) (h : Hist) : Int := P.filterRound (115 * h.prev1 - 52 * h.prev2) 64

/-- `t = Term(filter, prev1, prev2)` (R105). -/
def filterTerm (P : Params) (f : Filter) (h : Hist) : Int :=
  match f with
  | .f0 => termF0 P h
  | .f1 => termF1 P h
  | .f2 => termF2 P h
  | .f3 => termF3 P h

/-! ### CONFIG's operand -/

/-- Every field of `CFG_IN` within its range (spec/10_state.md R26). -/
def cfgInRange (addrW frameW : Nat) (c : Cfg) : Bool :=
  decide (c.attackRate ≤ 15) && decide (c.decayRate ≤ 7) && decide (c.sustainLevel ≤ 7) &&
  decide (c.sustainRate ≤ 31) && decide (c.loopStart < 2 ^ addrW) && decide (c.maxFrames < 2 ^ frameW)

end Sys2Proof.Machine
end

