-- ==== Sys2Proof/Machine/Flags.lean ====
section
/-!
DEFINITION. The flags and the codes. The only flags are the loop and end flags of a block header, data fields that only
block-end control reads (spec/10_state.md R32); the core has no arithmetic condition codes, and a clamp, the shift quirk
or a looping wrap sets none. The codes are those of the state read port (R24, R33) and of the fault (R201).
-/

namespace Sys2Proof.Machine

/-- What block-end control does after the 16th frame of a block (spec/42_stream.md R178 to R180). -/
inductive BlockEnd where
  /-- End flag, loop flag and looping enabled: jump to `loop_start` (R178). -/
  | loopJump
  /-- End flag without a loop: the stream ends (R179). -/
  | finish
  /-- No end flag: the next block (R180). The loop flag alone has no effect (R183). -/
  | advance
  deriving DecidableEq, Repr

/-- The choice among them, from the header's two flags and `CFG.loop_enabled`. -/
def blockEndKind (h : Header) (loopEnabled : Bool) : BlockEnd :=
  if h.endFlag then
    if h.loopFlag && loopEnabled then .loopJump else .finish
  else .advance

/-- The 2-bit code of a phase on the state read port (R24). -/
def phaseCode : Phase → BitVec 2
  | .attack  => 0
  | .decay   => 1
  | .sustain => 2
  | .release => 3

/-- The 3-bit code of a status on the state read port (R33). -/
def statusCode : Status → BitVec 3
  | .idle      => 0
  | .running   => 1
  | .ended     => 2
  | .cap       => 3
  | .exhausted => 4

/-- The terminal statuses END, CAP and EXHAUSTED (R33). -/
def isTerminal : Status → Bool
  | .idle      => false
  | .running   => false
  | .ended     => true
  | .cap       => true
  | .exhausted => true

/-- The fault code of MalformedBlock (spec/60_exceptions.md R201). The spec gives the model's own fetch fault none. -/
def faultCode : Fault → Option Nat
  | .malformedBlock _ => some 1
  | .fetchOutside _   => none

end Sys2Proof.Machine
end

