-- ==== Sys2Proof/Machine/Ops.lean ====
section
/-!
DEFINITION. The shared operations: the sample memory (spec/20_memory.md), the block fetch, the ending of a stream, the
fetch check and the frame cap, the host's moves, and the state read port.

The core has no exception entry and no return (spec/60_exceptions.md R200, R207, R208). In their place stands
`endStream`, the one way into a terminal status, which changes nothing but `status`; only START and RESET leave one.
-/

namespace Sys2Proof.Machine

/-! ### The sample memory -/

/-- The byte the cells hold at an offset. -/
def cellsAt : List Host.Cell → Nat → Byte
  | [], _ => Memory.unlisted
  | (a, v) :: rest, k => if a = k then v else cellsAt rest k

/-- `MEM[k]`; nothing at or beyond `L`, where no byte exists (R50). -/
def Memory.read (m : Memory) (k : Nat) : Option Byte :=
  if k < m.len then some (cellsAt m.cells k) else none

/-- `MemRead(a, 9)`, the core's only access: the header at `a`, then the data bytes in increasing address order (R51,
R52, R175). Defined only when `a + 9 <= L` (spec/00_scope.md R14). -/
def Memory.block (m : Memory) (a : Nat) : Option Block :=
  if a + 9 ≤ m.len then
    some ⟨cellsAt m.cells a,
      ⟨cellsAt m.cells (a + 1), cellsAt m.cells (a + 2), cellsAt m.cells (a + 3), cellsAt m.cells (a + 4),
       cellsAt m.cells (a + 5), cellsAt m.cells (a + 6), cellsAt m.cells (a + 7), cellsAt m.cells (a + 8)⟩⟩
  else none

/-- The cells of a byte list that starts at an offset, in canonical form. -/
def cellsOfBytes : Nat → List Byte → List Host.Cell
  | _, [] => []
  | a, b :: rest => if b = Memory.unlisted then cellsOfBytes (a + 1) rest else (a, b) :: cellsOfBytes (a + 1) rest

/-- The memory that holds exactly these bytes from offset 0. -/
def Memory.ofBytes (bytes : List Byte) : Memory := ⟨cellsOfBytes 0 bytes, bytes.length⟩

/-! ### The sequencer's registers -/

/-- `cursor <- c`. -/
def State.setCursor (s : State) (c : Nat) : State := { s with seq := { s.seq with cursor := c } }

/-- `unit <- u`. -/
def State.setUnit (s : State) (u : Fin 16) : State := { s with seq := { s.seq with unit := u } }

/-- `status <- S`. -/
def State.setStatus (s : State) (st : Status) : State := { s with seq := { s.seq with status := st } }

/-! ### Ending a stream -/

/-- Entry into a terminal status: it saves nothing and changes nothing beyond `status` (R207). -/
def endStream (st : Status) (s : State) : State := s.setStatus st

/-- `FetchCheck()`: fewer than 9 bytes at the cursor end the stream with EXHAUSTED, and the cursor keeps the offset
that failed (spec/42_stream.md R173; R202). -/
def fetchCheck (s : State) : State :=
  if s.seq.cursor + 9 > s.mem.len then endStream .exhausted s else s

/-- The frame cap: a stream still RUNNING, with looping enabled, that has `max_frames` frames ends with CAP (R181). -/
def frameCap (s : State) : State :=
  if s.seq.status = .running ∧ s.cfg.loopEnabled = true ∧ s.cfg.maxFrames ≤ s.seq.frames then endStream .cap s
  else s

/-- A stream that starts a block latches the 9 bytes at the cursor; the other 15 STEPs use the latch (R175). Nothing
where the fetch is not defined. -/
def latchBlock (s : State) : Option State :=
  if s.seq.unit = 0 then (s.mem.block s.seq.cursor).map fun b => { s with blk := b } else some s

/-- Block-end control, after the 16th frame of a block (R178, R179, R180). -/
def blockEnd (P : Params) (s : State) : State :=
  match blockEndKind (P.layout s.blk.hdr) s.cfg.loopEnabled with
  | .loopJump => fetchCheck (s.setCursor s.cfg.loopStart)
  | .finish   => endStream .ended s
  | .advance  => fetchCheck (s.setCursor (s.seq.cursor + 9))

/-! ### The host -/

/-- The host's next move and the state with that move taken off; nothing when the host makes none. -/
def nextMove (s : State) : Option (HostMove × State) :=
  match s.host with
  | []           => none
  | m :: waiting => some (m, { s with host := waiting })

/-- The host presents a sample memory (spec/70_reset_and_hazards.md R222 step 1; R61). It has no such move while a
stream is RUNNING (R225), nor for more than `2^ADDR_W` bytes (R7). -/
def presentMemory (bytes : List Byte) (s : State) : Result :=
  if s.seq.status = .running then .refused .memWhileRunning
  else if 2 ^ s.addrW < bytes.length then .refused .memTooLong
  else .next { s with mem := Memory.ofBytes bytes }

/-- The host move that runs a word of the opcode table: the command itself, or for a block the command that decodes
it, DECODE with the block's bytes on `DEC_IN` (log 15). -/
def tableMove (nbits w : Nat) : HostMove :=
  match tableWire nbits w with
  | .command code cfgIn decIn => .command code cfgIn decIn
  | .block bytes              => .command 0b111 Cfg.zero bytes

/-! ### The state read port (spec/10_state.md R37) -/

/-- What the port presents. -/
structure ReadPort where
  prev1  : Int
  prev2  : Int
  phase  : BitVec 2
  level  : Nat
  cfg    : Cfg
  cursor : Nat
  unit   : Fin 16
  frames : Nat
  status : BitVec 3
  blk    : Block
  out    : List Int
  decOut : List Int
  deriving DecidableEq, Repr

/-- The state read port: a read has no side effect (R37). -/
def readPort (s : State) : ReadPort :=
  { prev1 := s.hist.prev1, prev2 := s.hist.prev2
    phase := phaseCode s.env.phase, level := s.env.level
    cfg := s.cfg
    cursor := s.seq.cursor, unit := s.seq.unit, frames := s.seq.frames, status := statusCode s.seq.status
    blk := s.blk, out := s.out, decOut := s.decOut }

end Sys2Proof.Machine
end

