-- ==== Sys2Proof/Machine/BrrDecode.lean ====
section
/-!
DEFINITION. The BRR block decoder and its history (spec/40_brr_decode.md): the per-unit function, the block, the four
decode variants and DECODE.
-/

namespace Sys2Proof.Machine

/-! ### The per-unit pipeline -/

/-- `DecodeUnit` on a header already taken apart: the emission `d` and the new history (R100). The sum `a + t` is formed
exactly and clamped (R106), the clamped value is what the history keeps (R107), and the emission is twice it (R108). -/
def decodeUnitFields (P : Params) (f : Header) (d : BlockData) (i : Fin 16) (h : Hist) : Int × Hist :=
  let a := shiftStage P f.shift (unitValue d i)
  let t := filterTerm P f.filter h
  let c := clamp16 (a + t)
  (2 * c, { prev1 := c, prev2 := h.prev1 })

/-- `DecodeUnit(hdr, data, i, prev1, prev2)` (R100). -/
def decodeUnit (P : Params) (hdr : Byte) (d : BlockData) (i : Fin 16) (h : Hist) : Int × Hist :=
  decodeUnitFields P (P.layout hdr) d i h

/-! ### The block -/

/-- The units of a block in the order they are decoded. -/
def allUnits : List (Fin 16) := [0, 1, 2, 3, 4, 5, 6, 7, 8, 9, 10, 11, 12, 13, 14, 15]

/-- `DecodeUnit` for each unit of a list in order, threading the history through. -/
def decodeUnits (P : Params) (f : Header) (d : BlockData) : List (Fin 16) → Hist → List Int × Hist
  | [], h => ([], h)
  | i :: rest, h =>
    let r := decodeUnitFields P f d i h
    let later := decodeUnits P f d rest r.2
    (r.1 :: later.1, later.2)

/-- `DecodeBlock` on a header already taken apart: the 16 emissions and the final history (R109). -/
def decodeBlockFields (P : Params) (f : Header) (d : BlockData) (h : Hist) : List Int × Hist :=
  decodeUnits P f d allUnits h

/-- `DecodeBlock(hdr, data, prev1, prev2)` (R109). -/
def decodeBlock (P : Params) (hdr : Byte) (d : BlockData) (h : Hist) : List Int × Hist :=
  decodeBlockFields P (P.layout hdr) d h

/-- A block decoded from the history buffer: its 16 emissions on `DEC_OUT`, the new history in `HIST`, nothing else
changed (R109, R115). -/
def blockToDecOut (P : Params) (f : Header) (d : BlockData) (s : State) : State :=
  let r := decodeBlockFields P f d s.hist
  { s with decOut := r.1, hist := r.2 }

/-! ### The instructions

A block has no command of its own: DECODE runs it whole and STEP one unit at a time. As an instruction it does what
DECODE does with it, with no check of the status (log 14, DESIGN CHOICE). -/

/-- BRR.F0: decode a block with no prediction (R110). -/
def execBrrF0 (shift : BitVec 4) (loopFlag endFlag : Bool) (data : BlockData) (s : State) : Result :=
  .next (blockToDecOut params ⟨shift, .f0, loopFlag, endFlag⟩ data s)

/-- BRR.F1: decode a block with first-order prediction (R111). -/
def execBrrF1 (shift : BitVec 4) (loopFlag endFlag : Bool) (data : BlockData) (s : State) : Result :=
  .next (blockToDecOut params ⟨shift, .f1, loopFlag, endFlag⟩ data s)

/-- BRR.F2: decode a block with second-order prediction, 61/32 and -15/16 (R112). -/
def execBrrF2 (shift : BitVec 4) (loopFlag endFlag : Bool) (data : BlockData) (s : State) : Result :=
  .next (blockToDecOut params ⟨shift, .f2, loopFlag, endFlag⟩ data s)

/-- BRR.F3: decode a block with second-order prediction, 115/64 and -13/16 (R113). -/
def execBrrF3 (shift : BitVec 4) (loopFlag endFlag : Bool) (data : BlockData) (s : State) : Result :=
  .next (blockToDecOut params ⟨shift, .f3, loopFlag, endFlag⟩ data s)

/-- DECODE: decode one block from the port, using the history buffer (R115). Refused while RUNNING; only then the length
is looked at (spec/60_exceptions.md R206), and an operand that is not 9 bytes is the fault MalformedBlock (R201). -/
def execDecode (decIn : List Byte) (s : State) : Result :=
  if s.seq.status = .running then .refused .historyOwnedByStream
  else
    match Block.ofBytes decIn with
    | none   => .fault (.malformedBlock decIn.length)
    | some b => .next (blockToDecOut params (params.layout b.hdr) b.data s)

end Sys2Proof.Machine
end

