-- ==== Sys2Proof/Machine/Envelope.lean ====
section
/-!
DEFINITION. The ADSR envelope generator (spec/41_envelope.md): the tick, the gain, and the commands KEY_ON, KEY_OFF and
ENV_TICK.
-/

namespace Sys2Proof.Machine

/-! ### The tick -/

/-- `ExpDec(level) = max(0, level - max(1, (level - 1) >> 8))`, with an arithmetic shift (R146). -/
def expDec (level : Nat) : Nat :=
  (max 0 ((level : Int) - max 1 (asr ((level : Int) - 1) 8))).toNat

/-- Attack tick: 1024 up when `attack_rate` is 15, else 32; reaching 2047 holds there and enters Decay on the same tick
(R144). -/
def attackTick (c : Cfg) (e : Env) : Env :=
  let level := e.level + (if c.attackRate = 15 then 1024 else 32)
  if 2047 ≤ level then ⟨.decay, 2047⟩ else ⟨.attack, level⟩

/-- Decay tick: the sustain boundary is compared with the level after this tick's decrement (R145). -/
def decayTick (c : Cfg) (e : Env) : Env :=
  let level := expDec e.level
  if level >>> 8 ≤ c.sustainLevel then ⟨.sustain, level⟩ else ⟨.decay, level⟩

/-- Sustain tick: the same decrement when `sustain_rate > 0`, else the level is held (R147). -/
def sustainTick (c : Cfg) (e : Env) : Env :=
  ⟨.sustain, if 0 < c.sustainRate then expDec e.level else e.level⟩

/-- Release tick: `level <- max(0, level - 8)` (R148). -/
def releaseTick (e : Env) : Env := ⟨.release, e.level - 8⟩

/-- `EnvTick`, the one transition function of the envelope; a disabled envelope does not change (R143). -/
def envTick (c : Cfg) (e : Env) : Env :=
  if c.envEnabled then
    match e.phase with
    | .attack  => attackTick c e
    | .decay   => decayTick c e
    | .sustain => sustainTick c e
    | .release => releaseTick e
  else e

/-- `EnvTick()` on the machine. -/
def tickEnvelope (s : State) : State := { s with env := envTick s.cfg s.env }

/-! ### The gain -/

/-- `Apply(d)`: the exact product `d * level / 2047` converted by `GAIN_ROUND` and clamped; gain exactly 1 while the
envelope is disabled (R151, R152). -/
def applyGain (P : Params) (c : Cfg) (e : Env) (d : Int) : Int :=
  if c.envEnabled then clamp16 (P.gainRound (d * (e.level : Int)) 2047) else clamp16 d

/-! ### The commands -/

/-- KEY_ON: restart the envelope; legal in every status, `env_enabled` is not read (R141). -/
def execKeyOn (s : State) : Result := .next { s with env := ⟨.attack, 0⟩ }

/-- KEY_OFF: force the release phase, the level unchanged; legal in every status (R142). -/
def execKeyOff (s : State) : Result := .next { s with env := { s.env with phase := .release } }

/-- ENV_TICK: one tick with no sample; refused while RUNNING (R153). -/
def execEnvTick (s : State) : Result :=
  if s.seq.status = .running then .refused .envelopeOwnedByStream else .next (tickEnvelope s)

end Sys2Proof.Machine
end

