-- ==== Sys2Proof/Machine/Stream.lean ====
section
/-!
DEFINITION. The stream sequencer (spec/42_stream.md): CONFIG, START and STEP.
-/

namespace Sys2Proof.Machine

/-- CONFIG: latch the configuration. The RUNNING refusal is checked before the range refusal (R171; spec/60_exceptions.md
R206). -/
def execConfig (cfgIn : Cfg) (s : State) : Result :=
  if s.seq.status = .running then .refused .configWhileRunning
  else if cfgInRange s.addrW s.frameW cfgIn then .next { s with cfg := cfgIn }
  else .refused .configOutOfRange

/-- The registers a new stream starts with, before its checks (R172). -/
def freshStream (s : State) : State :=
  { s with
    hist := ⟨0, 0⟩
    env := ⟨.attack, 0⟩
    seq := { cursor := 0, unit := 0, frames := 0, status := .running }
    out := [] }

/-- START: begin a stream at offset 0; the fetch check comes before the cap check (R172, R206). -/
def execStart (s : State) : Result := .next (frameCap (fetchCheck (freshStream s)))

/-- One frame of a running stream, in the order of R176: decode one unit, tick the envelope once, apply the gain with the
new level, append the result and count it. -/
def emitFrame (P : Params) (s : State) : State :=
  let r := decodeUnit P s.blk.hdr s.blk.data s.seq.unit s.hist
  let e := envTick s.cfg s.env
  { s with
    hist := r.2
    env := e
    out := s.out ++ [applyGain P s.cfg e r.1]
    seq := { s.seq with frames := s.seq.frames + 1 } }

/-- Unit advance: after unit 15 the next unit is 0 and block-end control runs (R177). -/
def advanceUnit (P : Params) (s : State) : State :=
  if s.seq.unit = 15 then blockEnd P (s.setUnit 0) else s.setUnit (s.seq.unit + 1)

/-- STEP under any parameters (R174): it does nothing unless a stream is RUNNING (R182). -/
def streamStep (P : Params) (s : State) : Result :=
  if s.seq.status = .running then
    match latchBlock s with
    | none    => .fault (.fetchOutside s.seq.cursor)
    | some s₁ => .next (frameCap (advanceUnit P (emitFrame P s₁)))
  else .next s

/-- STEP: emit the next frame of a running stream (R174). -/
def execStep (s : State) : Result := streamStep params s

end Sys2Proof.Machine
end

