-- ==== Sys2Proof/Machine/System.lean ====
section
/-!
DEFINITION. RESET (spec/70_reset_and_hazards.md).
-/

namespace Sys2Proof.Machine

/-- RESET: return the core to its power-on state; legal in every status (R220). `BLK` is left unspecified: a free value
(log 6). The inputs are not state of the core (spec/10_state.md R20): the memory presented, the widths and the host's
moves still to come stay. -/
def execReset (s : State) : Result :=
  .next { s with
    hist := ⟨0, 0⟩
    env := ⟨.attack, 0⟩
    cfg := Cfg.zero
    seq := { cursor := 0, unit := 0, frames := 0, status := .idle }
    blk := Config.freeBlock s.draws
    out := []
    decOut := [0, 0, 0, 0, 0, 0, 0, 0, 0, 0, 0, 0, 0, 0, 0, 0]
    draws := s.draws + 1 }

end Sys2Proof.Machine
end

