-- ==== Sys2Proof/Machine/Dispatch.lean ====
section
/-! DEFINITION. The dispatch: one arm for each constructor of Instr, each one direct call of its meaning. -/

namespace Sys2Proof.Machine

def exec (i : Instr) (s : State) : Host.Outcome State Fault Refusal :=
  match i with
  | .brrF0 shift loopFlag endFlag data => Sys2Proof.Machine.execBrrF0 shift loopFlag endFlag data s
  | .brrF1 shift loopFlag endFlag data => Sys2Proof.Machine.execBrrF1 shift loopFlag endFlag data s
  | .brrF2 shift loopFlag endFlag data => Sys2Proof.Machine.execBrrF2 shift loopFlag endFlag data s
  | .brrF3 shift loopFlag endFlag data => Sys2Proof.Machine.execBrrF3 shift loopFlag endFlag data s
  | .reset => Sys2Proof.Machine.execReset s
  | .config cfgIn => Sys2Proof.Machine.execConfig cfgIn s
  | .start => Sys2Proof.Machine.execStart s
  | .step => Sys2Proof.Machine.execStep s
  | .keyOn => Sys2Proof.Machine.execKeyOn s
  | .keyOff => Sys2Proof.Machine.execKeyOff s
  | .envTick => Sys2Proof.Machine.execEnvTick s
  | .decode decIn => Sys2Proof.Machine.execDecode decIn s

end Sys2Proof.Machine
end

