-- ==== Sys2Proof/Machine/Step.lean ====
section
/-!
DEFINITION. The step: the host's next move, oldest first (spec/70_reset_and_hazards.md R228). A command is decoded from
its code and the values on its ports and executed; the host may instead present a memory. With no move of the host the
core is quiescent and keeps all its state (spec/60_exceptions.md R214).
-/

namespace Sys2Proof.Machine

/-- One step (spec/00_scope.md R6). -/
def step (s : State) : Host.Outcome State Fault Refusal :=
  match nextMove s with
  | none => .next s
  | some (.present bytes, s₁) => presentMemory bytes s₁
  | some (.command code cfgIn decIn, s₁) => exec (decodeCommand code cfgIn decIn) s₁

/-- The state in which the host's next move runs this word of the opcode table. -/
def State.withFetchWord (s : State) (nbits w : Nat) : State :=
  { s with host := tableMove nbits w :: s.host }

end Sys2Proof.Machine
end

