-- ==== Sys2Proof/Safety.lean ====
section
/-!
DEFINITION. What counts as a safe state, in the terms the statements use: the ranges the spec gives each register
(spec/10_state.md), the fetch invariant R40, the counters of a stream (spec/42_stream.md R186, R187), and repeated
execution of one instruction.
-/

namespace Sys2Proof.Machine

/-- Every register within the range the spec gives it: HIST int16 (R22), `ENV.level` in 0..2047 (R25), CFG within its
legal values (R26), OUT int16 (R34), DEC_OUT 16 even int17 values (R35, R108). -/
structure RegistersInRange (s : State) : Prop where
  prev1        : InInt16 s.hist.prev1
  prev2        : InInt16 s.hist.prev2
  level        : s.env.level ≤ 2047
  cfg          : cfgInRange s.addrW s.frameW s.cfg = true
  out          : ∀ v ∈ s.out, InInt16 v
  decOutLength : s.decOut.length = 16
  decOut       : ∀ v ∈ s.decOut, InInt17 v ∧ v % 2 = 0

/-- The memory presented is in canonical form and has at most `2^ADDR_W` bytes (R7, R50). -/
structure MemoryInForm (s : State) : Prop where
  wf  : s.mem.wf = true
  len : s.mem.len ≤ 2 ^ s.addrW

/-- R40: while a stream is RUNNING, 9 bytes remain at the cursor. -/
abbrev FetchReady (s : State) : Prop := s.seq.status = .running → s.seq.cursor + 9 ≤ s.mem.len

/-- The safe states. -/
structure Safe (s : State) : Prop where
  registers : RegistersInRange s
  memory    : MemoryInForm s
  fetch     : FetchReady s

/-- The counters of a stream. `frames` counts the frames in OUT (R30), and 16 of them are one block (R177), so END and
EXHAUSTED come only at a block boundary (R187). A RUNNING stream is below its bound (R186): with looping enabled below
`max_frames`, else its cursor is 9 bytes for each block emitted. -/
structure StreamCounters (s : State) : Prop where
  outLength  : s.out.length = s.seq.frames
  unit       : s.seq.frames % 16 = s.seq.unit.val
  idle       : s.seq.status = .idle → s.seq.frames = 0
  atBoundary : s.seq.status = .ended ∨ s.seq.status = .exhausted → s.seq.unit = 0
  looping    : s.seq.status = .running → s.cfg.loopEnabled = true → s.seq.frames < s.cfg.maxFrames
  straight   : s.seq.status = .running → s.cfg.loopEnabled = false → s.seq.cursor = 9 * (s.seq.frames / 16)

/-- The same instruction `n` times, stopping at the first fault or refusal. -/
def repeatExec (i : Instr) : Nat → State → Result
  | 0, s => .next s
  | n + 1, s =>
    match exec i s with
    | .next t    => repeatExec i n t
    | .fault r   => .fault r
    | .refused r => .refused r

/-- The envelope after `n` ticks. -/
def envTicks (c : Cfg) : Nat → Env → Env
  | 0, e => e
  | n + 1, e => envTicks c n (envTick c e)

end Sys2Proof.Machine
end

