-- ==== Sys2Proof/Certificates/Slice0/Obligations.lean ====
section
/-!
DEFINITION. The statements for the provers, from the numbered rules of spec/. A statement about every state holds of
states no run reaches too; where it could fail only there it has an invariant as its premise, and the invariant is a
statement of its own.
-/

open Sys2Proof Sys2Proof.Machine

/-! ### Encoding (spec/30_encoding.md) -/

/-- Words written out from the spec's encodings decode to the instructions they stand for: blocks of the vectors of
spec/95_test_vectors.md, and the eight command codes of R72. The header positions are PRESUMED (log 1). -/
def Obligations.SpecifiedWordsDecode : Prop :=
  decode (.block [0xC1, 0x17, 0x8F, 0x00, 0x7F, 0x12, 0x34, 0xF0, 0x08]) =
    .ok (.brrF0 12 false true ⟨0x17, 0x8F, 0x00, 0x7F, 0x12, 0x34, 0xF0, 0x08⟩) ∧
  decode (.block [0xC7, 0x70, 0x00, 0x00, 0x00, 0x00, 0x00, 0x00, 0x00]) =
    .ok (.brrF1 12 true true ⟨0x70, 0x00, 0x00, 0x00, 0x00, 0x00, 0x00, 0x00⟩) ∧
  decode (.block [0x78, 0x7F, 0x80, 0x01, 0xFE, 0x00, 0x00, 0x00, 0x00]) =
    .ok (.brrF2 7 false false ⟨0x7F, 0x80, 0x01, 0xFE, 0x00, 0x00, 0x00, 0x00⟩) ∧
  decode (.block [0x8E, 0x12, 0x34, 0x56, 0x78, 0x9A, 0xBC, 0xDE, 0xF0]) =
    .ok (.brrF3 8 true false ⟨0x12, 0x34, 0x56, 0x78, 0x9A, 0xBC, 0xDE, 0xF0⟩) ∧
  ∀ (cfgIn : Cfg) (decIn : List Byte),
    decode (.command 0b000 cfgIn decIn) = .ok .reset ∧
    decode (.command 0b001 cfgIn decIn) = .ok (.config cfgIn) ∧
    decode (.command 0b010 cfgIn decIn) = .ok .start ∧
    decode (.command 0b011 cfgIn decIn) = .ok .step ∧
    decode (.command 0b100 cfgIn decIn) = .ok .keyOn ∧
    decode (.command 0b101 cfgIn decIn) = .ok .keyOff ∧
    decode (.command 0b110 cfgIn decIn) = .ok .envTick ∧
    decode (.command 0b111 cfgIn decIn) = .ok (.decode decIn)

/-- Decode and encode agree on every instruction, with every operand at every value: no bit of an encoding is
dropped. It asks for no well-formedness, so it holds of every well-formed instruction. -/
def Obligations.DecodingAnEncodingGivesItBack : Prop :=
  ∀ i : Instr, decode (encode i) = .ok i

/-- Every 9 bytes are one block and decode, whatever the header and the data (R78, R79), with no bit lost; any other
number of bytes is rejected by its length (R70). -/
def Obligations.EveryNineBytesDecodeWithoutLoss : Prop :=
  ∀ bytes : List Byte,
    (bytes.length = 9 → ∃ i, decode (.block bytes) = .ok i ∧ encode i = .block bytes) ∧
    (bytes.length ≠ 9 → decode (.block bytes) = .error (.blockLength bytes.length))

/-- The header's filter field selects the variant by the masks of R77, and the other fields stand at bits 7:4, 1 and 0
(R74). The positions are PRESUMED (log 1). -/
def Obligations.HeaderMasksSelectTheVariant : Prop :=
  ∀ b : Block, ∃ (shift : BitVec 4) (l e : Bool),
    shift.toNat = b.hdr.toNat / 16 ∧ (l = true ↔ b.hdr.toNat / 2 % 2 = 1) ∧ (e = true ↔ b.hdr.toNat % 2 = 1) ∧
    (b.hdr &&& 0x0C = 0x00 → decode (.block b.toBytes) = .ok (.brrF0 shift l e b.data)) ∧
    (b.hdr &&& 0x0C = 0x04 → decode (.block b.toBytes) = .ok (.brrF1 shift l e b.data)) ∧
    (b.hdr &&& 0x0C = 0x08 → decode (.block b.toBytes) = .ok (.brrF2 shift l e b.data)) ∧
    (b.hdr &&& 0x0C = 0x0C → decode (.block b.toBytes) = .ok (.brrF3 shift l e b.data))

/-! ### One unit (spec/40_brr_decode.md) -/

/-- R101, R102: unit `i` is the high half of data byte `i div 2` when `i` is even and its low half when `i` is odd,
sign-extended from 4 bits. -/
def Obligations.UnitsAreSignedHalvesHighFirst : Prop :=
  ∀ (d : BlockData) (i : Fin 16), ∃ (byte : Byte) (n : Nat),
    [d.d0, d.d1, d.d2, d.d3, d.d4, d.d5, d.d6, d.d7][i.val / 2]? = some byte ∧
    (i.val % 2 = 0 → n = byte.toNat / 16) ∧ (i.val % 2 = 1 → n = byte.toNat % 16) ∧
    (n ≤ 7 → unitValue d i = (n : Int)) ∧ (8 ≤ n → unitValue d i = (n : Int) - 16)

/-- For shift 0..12 the shift stage answers `floor(u * 2^shift / 2)` (R103), which for shift 1 and more is
`u * 2^(shift-1)` exactly, and for units in -8..7 it lies in -16384..14336 (the consequences that R103 marks derived). -/
def Obligations.NormalShiftRoundsDown : Prop :=
  ∀ (P : Params) (shift : BitVec 4) (u : Int), shift.toNat ≤ 12 →
    2 * shiftStage P shift u ≤ u * 2 ^ shift.toNat ∧ u * 2 ^ shift.toNat < 2 * shiftStage P shift u + 2 ∧
    (1 ≤ shift.toNat → shiftStage P shift u = u * 2 ^ (shift.toNat - 1)) ∧
    (-8 ≤ u → u ≤ 7 → -16384 ≤ shiftStage P shift u ∧ shiftStage P shift u ≤ 14336)

/-- The shift quirk: for shift 13, 14 and 15 the result is `HI_SHIFT(u)` under every parameter, for every allowed reading
a function of the unit's sign alone, and on this hardware -2048 for a negative unit and 0 for any other (PRESUMED, log 2). -/
def Obligations.HighShiftKeepsOnlyTheSign : Prop :=
  ∀ (shift : BitVec 4) (u v : Int), 13 ≤ shift.toNat →
    (∀ P : Params, shiftStage P shift u = P.hiShift u) ∧
    (∀ P : Params, P.Allowed → (u < 0 ↔ v < 0) → shiftStage P shift u = shiftStage P shift v) ∧
    (u < 0 → shiftStage params shift u = -2048) ∧ (0 ≤ u → shiftStage params shift u = 0)

/-- The roundings of this hardware are among those R13 allows; the filter's takes the even integer at a tie, the gain's
rounds toward zero (PRESUMED, logs 3 and 4). -/
def Obligations.DefaultRoundingsAreAllowed : Prop :=
  params.Allowed ∧
  (∀ n d : Int, 0 < d → 2 * (rhe n d * d - n) = d ∨ 2 * (rhe n d * d - n) = -d → rhe n d % 2 = 0) ∧
  (∀ n d : Int, 0 < d → (0 ≤ n → 0 ≤ trunc n d ∧ trunc n d * d ≤ n) ∧ (n ≤ 0 → trunc n d ≤ 0 ∧ n ≤ trunc n d * d))

/-- The filter term is within 1/2 of the exact formula of its variant, for every rounding the source allows (R105 with
R13; the spec's decision D4). -/
def Obligations.FilterTermsAreNearTheFormulas : Prop :=
  ∀ (P : Params) (h : Hist), FilterRoundAllowed P.filterRound →
    filterTerm P .f0 h = 0 ∧
    (-8 ≤ 16 * filterTerm P .f1 h - 15 * h.prev1 ∧ 16 * filterTerm P .f1 h - 15 * h.prev1 ≤ 8) ∧
    (-16 ≤ 32 * filterTerm P .f2 h - (61 * h.prev1 - 30 * h.prev2) ∧
      32 * filterTerm P .f2 h - (61 * h.prev1 - 30 * h.prev2) ≤ 16) ∧
    (-32 ≤ 64 * filterTerm P .f3 h - (115 * h.prev1 - 52 * h.prev2) ∧
      64 * filterTerm P .f3 h - (115 * h.prev1 - 52 * h.prev2) ≤ 32)

/-- R106 and R107: the sample is the exact sum clamped to -32768..32767, and after the unit `prev2` is the former
`prev1` and `prev1` is the clamped sample, an int16 each, under every parameter. -/
def Obligations.UnitClampsAndShiftsTheHistory : Prop :=
  ∀ (P : Params) (f : Header) (d : BlockData) (i : Fin 16) (h : Hist),
    (decodeUnitFields P f d i h).2.prev2 = h.prev1 ∧
    (decodeUnitFields P f d i h).2.prev1 =
      min 32767 (max (-32768) (shiftStage P f.shift (unitValue d i) + filterTerm P f.filter h)) ∧
    InInt16 (decodeUnitFields P f d i h).2.prev1 ∧
    (InInt16 h.prev1 → InInt16 (decodeUnitFields P f d i h).2.prev2)

/-- R116 (marked derived in the spec): the ranges of the intermediate values of one unit from an int16 history, under
every rounding the source allows and the high shift of this hardware. -/
def Obligations.IntermediateValuesStayInRange : Prop :=
  ∀ (P : Params) (f : Header) (d : BlockData) (i : Fin 16) (h : Hist),
    FilterRoundAllowed P.filterRound → P.hiShift = hiShiftDefault → InInt16 h.prev1 → InInt16 h.prev2 →
    (-8 ≤ unitValue d i ∧ unitValue d i ≤ 7) ∧
    (-16384 ≤ shiftStage P f.shift (unitValue d i) ∧ shiftStage P f.shift (unitValue d i) ≤ 14336) ∧
    (-93183 ≤ filterTerm P f.filter h ∧ filterTerm P f.filter h ≤ 93182) ∧
    (-109567 ≤ shiftStage P f.shift (unitValue d i) + filterTerm P f.filter h ∧
      shiftStage P f.shift (unitValue d i) + filterTerm P f.filter h ≤ 107518) ∧
    (-65536 ≤ (decodeUnitFields P f d i h).1 ∧ (decodeUnitFields P f d i h).1 ≤ 65534 ∧
      (decodeUnitFields P f d i h).1 % 2 = 0)

/-! ### Whole blocks -/

/-- R109: a block is `DecodeUnit` for units 0 to 15 in order, the history threaded through; it gives their 16 emissions
and the history after the last, which is the last two samples. -/
def Obligations.BlockThreadsTheHistoryThroughItsUnits : Prop :=
  ∀ (P : Params) (hdr : Byte) (d : BlockData) (h : Hist), ∃ (H : Nat → Hist) (e c : Nat → Int),
    H 0 = h ∧
    (∀ i : Fin 16, decodeUnit P hdr d i (H i.val) = (e i.val, H (i.val + 1)) ∧ (H (i.val + 1)).prev1 = c i.val) ∧
    (decodeBlock P hdr d h).1 = (List.range 16).map e ∧
    (decodeBlock P hdr d h).2 = H 16 ∧ H 16 = ⟨c 15, c 14⟩

/-- R114: the loop and end flags have no effect on decoding: neither on the block function, nor on DECODE, whose block
may have any two bits in the places of the flags (positions PRESUMED, log 1), nor on a block run as an instruction of its
own (that it has this effect is the model's choice, log 14). -/
def Obligations.FlagsDoNotAffectDecoding : Prop :=
  (∀ (P : Params) (f g : Header) (d : BlockData) (h : Hist), f.shift = g.shift → f.filter = g.filter →
    decodeBlockFields P f d h = decodeBlockFields P g d h) ∧
  (∀ (b b' : Block) (s : State), b.hdr &&& 0xFC = b'.hdr &&& 0xFC → b.data = b'.data →
    exec (.decode b.toBytes) s = exec (.decode b'.toBytes) s) ∧
  (∀ (shift : BitVec 4) (l e l' e' : Bool) (data : BlockData) (s : State),
    exec (.brrF0 shift l e data) s = exec (.brrF0 shift l' e' data) s ∧
    exec (.brrF1 shift l e data) s = exec (.brrF1 shift l' e' data) s ∧
    exec (.brrF2 shift l e data) s = exec (.brrF2 shift l' e' data) s ∧
    exec (.brrF3 shift l e data) s = exec (.brrF3 shift l' e' data) s)

/-! The recurrence of each variant: `c 1` and `c 0` are the history before the block, `c (i + 2)` the sample of unit
`i`. That a block run as an instruction leaves its emissions on DEC_OUT is the model's choice (log 14); the roundings
and the high shift are those of this hardware (logs 2 and 3). -/

/-- BRR.F0 (R110) completes from every state: no prediction and no clamping, so the emissions do not depend on the
history; DEC_OUT and HIST alone change. -/
def Obligations.BrrF0DecodesWithoutPrediction : Prop :=
  ∀ (shift : BitVec 4) (l e : Bool) (data : BlockData) (s : State),
    ∃ c : Fin 16 → Int, (∀ i, c i = shiftStage params shift (unitValue data i)) ∧
      exec (.brrF0 shift l e data) s = .next
        { s with hist := ⟨c 15, c 14⟩, decOut := (List.finRange 16).map (fun i => 2 * c i) }

/-- BRR.F1 (R111) completes from every state, with first-order prediction; DEC_OUT and HIST alone change. -/
def Obligations.BrrF1DecodesWithFirstOrderPrediction : Prop :=
  ∀ (shift : BitVec 4) (l e : Bool) (data : BlockData) (s : State),
    ∃ c : Nat → Int, c 0 = s.hist.prev2 ∧ c 1 = s.hist.prev1 ∧
      (∀ i : Fin 16, c (i.val + 2) =
        clamp16 (shiftStage params shift (unitValue data i) + rhe (15 * c (i.val + 1)) 16)) ∧
      exec (.brrF1 shift l e data) s = .next
        { s with hist := ⟨c 17, c 16⟩, decOut := (List.range 16).map (fun k => 2 * c (k + 2)) }

/-- BRR.F2 (R112) completes from every state, with the prediction 61/32 and -15/16; DEC_OUT and HIST alone change. -/
def Obligations.BrrF2DecodesWithSecondOrderPrediction : Prop :=
  ∀ (shift : BitVec 4) (l e : Bool) (data : BlockData) (s : State),
    ∃ c : Nat → Int, c 0 = s.hist.prev2 ∧ c 1 = s.hist.prev1 ∧
      (∀ i : Fin 16, c (i.val + 2) =
        clamp16 (shiftStage params shift (unitValue data i) + rhe (61 * c (i.val + 1) - 30 * c i.val) 32)) ∧
      exec (.brrF2 shift l e data) s = .next
        { s with hist := ⟨c 17, c 16⟩, decOut := (List.range 16).map (fun k => 2 * c (k + 2)) }

/-- BRR.F3 (R113) completes from every state, with the prediction 115/64 and -13/16; DEC_OUT and HIST alone change. -/
def Obligations.BrrF3DecodesWithSecondOrderPrediction : Prop :=
  ∀ (shift : BitVec 4) (l e : Bool) (data : BlockData) (s : State),
    ∃ c : Nat → Int, c 0 = s.hist.prev2 ∧ c 1 = s.hist.prev1 ∧
      (∀ i : Fin 16, c (i.val + 2) =
        clamp16 (shiftStage params shift (unitValue data i) + rhe (115 * c (i.val + 1) - 52 * c i.val) 64)) ∧
      exec (.brrF3 shift l e data) s = .next
        { s with hist := ⟨c 17, c 16⟩, decOut := (List.range 16).map (fun k => 2 * c (k + 2)) }

/-- DECODE (R115) of 9 bytes with no stream RUNNING completes: 16 emissions on DEC_OUT and the new history, everything
else unchanged. It is the effect of the block instruction those bytes decode to; that a bare block has that effect on
DEC_OUT and HIST is the model's choice (log 14). -/
def Obligations.DecodeRunsTheBlockOnItsPort : Prop :=
  ∀ (bytes : List Byte) (s : State), s.seq.status ≠ .running → bytes.length = 9 →
    ∃ (i : Instr) (t : State), decode (.block bytes) = .ok i ∧ exec (.decode bytes) s = .next t ∧ exec i s = .next t ∧
      t = { s with decOut := t.decOut, hist := t.hist } ∧ t.decOut.length = 16

/-- DECODE stops by name: refused while RUNNING, whatever the operand; else an operand that is not 9 bytes is the fault
MalformedBlock with its length (R201, R205, R206; the spec's decisions D15, D17, D26). -/
def Obligations.DecodeStopsByName : Prop :=
  ∀ (bytes : List Byte) (s : State),
    (s.seq.status = .running → exec (.decode bytes) s = .refused .historyOwnedByStream) ∧
    (s.seq.status ≠ .running → bytes.length ≠ 9 → exec (.decode bytes) s = .fault (.malformedBlock bytes.length))

/-! ### The envelope (spec/41_envelope.md) -/

/-- KEY_ON and KEY_OFF (R141, R142) complete from every state and write the envelope alone: KEY_ON sets (Attack, 0),
KEY_OFF sets the phase to Release and keeps the level (the spec's decision D32). -/
def Obligations.KeyCommandsWriteTheEnvelopeAlone : Prop :=
  ∀ s : State,
    exec .keyOn s = .next { s with env := ⟨.attack, 0⟩ } ∧
    exec .keyOff s = .next { s with env := ⟨.release, s.env.level⟩ }

/-- ENV_TICK in Attack (R144): the level rises by 1024 when `attack_rate` is 15, else by 32; on reaching 2047 it is
2047 and the phase Decay, on the same tick. Nothing but ENV changes. -/
def Obligations.AttackTickRises : Prop :=
  ∀ s : State, s.seq.status ≠ .running → s.cfg.envEnabled = true → s.env.phase = .attack →
    exec .envTick s = .next { s with env :=
      if 2047 ≤ s.env.level + (if s.cfg.attackRate = 15 then 1024 else 32) then ⟨.decay, 2047⟩
      else ⟨.attack, s.env.level + (if s.cfg.attackRate = 15 then 1024 else 32)⟩ }

/-- ENV_TICK in Decay (R145, R146): the level falls by `max(1, (level - 1) >> 8)`, not below 0, and the phase becomes
Sustain when the new level divided by 256 is at most `sustain_level` (the spec's decisions D7, D8). -/
def Obligations.DecayTickFallsToTheSustainLevel : Prop :=
  ∀ s : State, s.seq.status ≠ .running → s.cfg.envEnabled = true → s.env.phase = .decay →
    ∃ v : Nat, (v : Int) = max 0 ((s.env.level : Int) - max 1 (((s.env.level : Int) - 1) / 256)) ∧
      exec .envTick s = .next { s with env := ⟨if v / 256 ≤ s.cfg.sustainLevel then .sustain else .decay, v⟩ }

/-- ENV_TICK in Sustain (R147): with `sustain_rate` above 0 the same decrement, else the level is held; the phase stays
(the spec's decisions D8, D33). -/
def Obligations.SustainTickFallsOrHolds : Prop :=
  ∀ s : State, s.seq.status ≠ .running → s.cfg.envEnabled = true → s.env.phase = .sustain →
    (s.cfg.sustainRate = 0 → exec .envTick s = .next s) ∧
    (0 < s.cfg.sustainRate →
      ∃ v : Nat, (v : Int) = max 0 ((s.env.level : Int) - max 1 (((s.env.level : Int) - 1) / 256)) ∧
        exec .envTick s = .next { s with env := ⟨.sustain, v⟩ })

/-- In Release each tick takes 8 from the level, not below 0 (R148), and from level `v` exactly `ceil(v / 8)` ticks
reach 0 (which R148 marks derived); said of any number of ENV_TICKs in a row. -/
def Obligations.ReleaseReachesZeroInCeilingOfEighth : Prop :=
  ∀ (s : State) (n : Nat), s.seq.status ≠ .running → s.cfg.envEnabled = true → s.env.phase = .release →
    ∃ t, repeatExec .envTick n s = .next t ∧ t = { s with env := t.env } ∧ t.env.phase = .release ∧
      (t.env.level : Int) = max 0 ((s.env.level : Int) - 8 * n) ∧
      (t.env.level = 0 ↔ (s.env.level + 7) / 8 ≤ n)

/-- ENV_TICK is refused while a stream is RUNNING, and with the envelope disabled it leaves the state as it is (R143,
R153; the spec's decisions D10, D17). -/
def Obligations.EnvTickRefusedOrDisabled : Prop :=
  ∀ s : State,
    (s.seq.status = .running → exec .envTick s = .refused .envelopeOwnedByStream) ∧
    (s.seq.status ≠ .running → s.cfg.envEnabled = false → exec .envTick s = .next s)

/-- R155 (marked derived in the spec): Attack from level 0 lasts 2 ticks when `attack_rate` is 15 and 64 ticks for every other rate, and enters Decay
at 2047 on the last of them. -/
def Obligations.AttackLastsTwoOrSixtyFourTicks : Prop :=
  ∀ s : State, s.seq.status ≠ .running → s.cfg.envEnabled = true → s.env = ⟨.attack, 0⟩ →
    (s.cfg.attackRate = 15 →
      repeatExec .envTick 1 s = .next { s with env := ⟨.attack, 1024⟩ } ∧
      repeatExec .envTick 2 s = .next { s with env := ⟨.decay, 2047⟩ }) ∧
    (s.cfg.attackRate ≠ 15 →
      (∀ n ≤ 63, repeatExec .envTick n s = .next { s with env := ⟨.attack, 32 * n⟩ }) ∧
      repeatExec .envTick 64 s = .next { s with env := ⟨.decay, 2047⟩ })

/-- The table of R154 (marked derived in the spec): the number of Decay ticks from 2047 until the move to Sustain and the level then reached, for
each `sustain_level`; one tick earlier the phase is still Decay. -/
def Obligations.DecayDurationTable : Prop :=
  ∀ (s : State) (n level : Nat), s.seq.status ≠ .running → s.cfg.envEnabled = true → s.env = ⟨.decay, 2047⟩ →
    (s.cfg.sustainLevel, n, level) ∈
      [(0, 664, 255), (1, 408, 511), (2, 280, 766), (3, 195, 1021), (4, 131, 1276), (5, 80, 1531), (6, 37, 1788),
       (7, 1, 2040)] →
    repeatExec .envTick n s = .next { s with env := ⟨.sustain, level⟩ } ∧
    ∃ t, repeatExec .envTick (n - 1) s = .next t ∧ t.env.phase = .decay

/-- R154 (marked derived in the spec): a tick keeps the phase or moves Attack to Decay or Decay to Sustain, never back, and `(Release, 0)` stays
(R149); the level stays in 0..2047. -/
def Obligations.TicksNeverGoBack : Prop :=
  ∀ (c : Cfg) (e : Env),
    ((envTick c e).phase = e.phase ∨ (e.phase = .attack ∧ (envTick c e).phase = .decay) ∨
      (e.phase = .decay ∧ (envTick c e).phase = .sustain)) ∧
    envTick c ⟨.release, 0⟩ = ⟨.release, 0⟩ ∧
    (e.level ≤ 2047 → (envTick c e).level ≤ 2047)

/-- R152: the gain stage answers an int16, for every conversion the source allows; a disabled envelope and level 2047
leave the clamped emission, level 0 silences, and at any other level the answer is the clamp of a number less than 1
away from `d * level / 2047` (the spec's decisions D5, D6). -/
def Obligations.GainScalesAndClamps : Prop :=
  ∀ (P : Params) (c : Cfg) (e : Env) (d : Int), GainRoundAllowed P.gainRound →
    InInt16 (applyGain P c e d) ∧
    (c.envEnabled = false → applyGain P c e d = clamp16 d) ∧
    (c.envEnabled = true → e.level = 2047 → applyGain P c e d = clamp16 d) ∧
    (c.envEnabled = true → e.level = 0 → applyGain P c e d = 0) ∧
    (c.envEnabled = true → ∃ q : Int, applyGain P c e d = clamp16 q ∧
      q * 2047 - d * (e.level : Int) < 2047 ∧ -2047 < q * 2047 - d * (e.level : Int))

/-! ### The sequencer (spec/42_stream.md) -/

/-- CONFIG (R171) with no stream RUNNING and every field in its range completes: CFG is the record on the port, and
nothing else changes. -/
def Obligations.ConfigLatchesTheRecord : Prop :=
  ∀ (s : State) (c : Cfg), s.seq.status ≠ .running → c.wellFormed s.addrW s.frameW = true →
    exec (.config c) s = .next { s with cfg := c }

/-- CONFIG is refused while RUNNING, whatever the record, and otherwise for a field outside its range (R205, R206; the
spec's decisions D15, D17, D36). -/
def Obligations.ConfigRefusesByName : Prop :=
  ∀ (s : State) (c : Cfg),
    (s.seq.status = .running → exec (.config c) s = .refused .configWhileRunning) ∧
    (s.seq.status ≠ .running →
      (15 < c.attackRate ∨ 7 < c.decayRate ∨ 7 < c.sustainLevel ∨ 31 < c.sustainRate ∨ 2 ^ s.addrW ≤ c.loopStart ∨
        2 ^ s.frameW ≤ c.maxFrames) →
      exec (.config c) s = .refused .configOutOfRange)

/-- START (R172) completes from every state: history (0, 0), envelope (Attack, 0), cursor, unit and frames 0, OUT empty;
the status is EXHAUSTED for a memory under 9 bytes, else CAP where looping is enabled with `max_frames` 0, else RUNNING;
nothing else changes (the spec's decisions D11, D12, D14, D15). -/
def Obligations.StartBeginsAStream : Prop :=
  ∀ s : State, exec .start s = .next { s with
    hist := ⟨0, 0⟩
    env := ⟨.attack, 0⟩
    seq := { cursor := 0, unit := 0, frames := 0
             status := if s.mem.len < 9 then .exhausted
                       else if s.cfg.loopEnabled = true ∧ s.cfg.maxFrames = 0 then .cap else .running }
    out := [] }

/-- STEP with no stream RUNNING completes and changes nothing (R182; the spec's decision D18). -/
def Obligations.StepIsQuietOutsideAStream : Prop :=
  ∀ s : State, s.seq.status ≠ .running → exec .step s = .next s

/-- STEP of a RUNNING stream completes wherever its fetch is defined (R174, R175, R176): at unit 0 BLK holds the 9
bytes at the cursor, else it is unchanged; one unit is decoded into HIST, the envelope ticks once, the emission scaled
with the new level is appended to OUT, and `frames` counts it. CFG, DEC_OUT, the memory and the inputs are unchanged
(the spec's decision D9). -/
def Obligations.StepEmitsOneFrame : Prop :=
  ∀ s : State, s.seq.status = .running → (s.seq.unit = 0 → s.seq.cursor + 9 ≤ s.mem.len) →
    ∃ (t : State) (b : Block), exec .step s = .next t ∧
      (s.seq.unit = 0 → ∀ k < 9, s.mem.read (s.seq.cursor + k) = b.toBytes[k]?) ∧
      (s.seq.unit ≠ 0 → b = s.blk) ∧
      t = { s with
        blk := b
        hist := (decodeUnit params b.hdr b.data s.seq.unit s.hist).2
        env := envTick s.cfg s.env
        out := s.out ++
          [applyGain params s.cfg (envTick s.cfg s.env) (decodeUnit params b.hdr b.data s.seq.unit s.hist).1]
        seq := t.seq } ∧
      t.seq.frames = s.seq.frames + 1

/-- STEP of a RUNNING stream after a unit below 15 moves to the next unit with the cursor where it was; after unit
15 the unit is 0 (the unit's part of R177). -/
def Obligations.StepAdvancesTheUnit : Prop :=
  ∀ s : State, s.seq.status = .running → (s.seq.unit = 0 → s.seq.cursor + 9 ≤ s.mem.len) →
    ∃ t, exec .step s = .next t ∧
      (s.seq.unit.val < 15 → t.seq.unit.val = s.seq.unit.val + 1 ∧ t.seq.cursor = s.seq.cursor) ∧
      (s.seq.unit.val = 15 → t.seq.unit.val = 0)

/-- R179: after the 16th frame of a block whose end flag is 1 and that does not loop, the status is END and the cursor
is left at the ending block. -/
def Obligations.EndFlagWithoutLoopEndsTheStream : Prop :=
  ∀ s : State, s.seq.status = .running → s.seq.unit = 15 →
    (params.layout s.blk.hdr).endFlag = true →
    ¬ ((params.layout s.blk.hdr).loopFlag = true ∧ s.cfg.loopEnabled = true) →
    ∃ t, exec .step s = .next t ∧ t.seq.status = .ended ∧ t.seq.cursor = s.seq.cursor

/-- R180: after the 16th frame of a block whose end flag is 0 the cursor advances by 9, whatever the loop flag, and
fewer than 9 bytes there give EXHAUSTED, the cursor keeping the failing offset. With 9 bytes there the stream goes on:
RUNNING, or CAP where the frame cap comes after. -/
def Obligations.BlockWithoutEndFlagAdvances : Prop :=
  ∀ s : State, s.seq.status = .running → s.seq.unit = 15 → (params.layout s.blk.hdr).endFlag = false →
    ∃ t, exec .step s = .next t ∧ t.seq.cursor = s.seq.cursor + 9 ∧
      (s.mem.len < t.seq.cursor + 9 → t.seq.status = .exhausted) ∧
      (t.seq.cursor + 9 ≤ s.mem.len → t.seq.status = .running ∨ t.seq.status = .cap)

/-- The loop jump (R178; the spec's decision D13): after the 16th frame of a block with end and loop flag and looping
enabled the cursor is `loop_start`, any offset, EXHAUSTED where fewer than 9 bytes remain there, else RUNNING, or CAP
where the frame cap comes after; the history and the envelope carry on (R184). -/
def Obligations.LoopJumpKeepsHistoryAndEnvelope : Prop :=
  ∀ s : State, s.seq.status = .running → s.seq.unit = 15 → (params.layout s.blk.hdr).endFlag = true →
    (params.layout s.blk.hdr).loopFlag = true → s.cfg.loopEnabled = true →
    ∃ t, exec .step s = .next t ∧ t.seq.cursor = s.cfg.loopStart ∧
      (s.mem.len < s.cfg.loopStart + 9 → t.seq.status = .exhausted) ∧
      (s.cfg.loopStart + 9 ≤ s.mem.len → t.seq.status = .running ∨ t.seq.status = .cap) ∧
      t.hist = (decodeUnit params s.blk.hdr s.blk.data 15 s.hist).2 ∧ t.env = envTick s.cfg s.env

/-- R181 with R206: the status after a frame of a RUNNING stream. Block-end control comes first: END after the 16th frame
of an end-flagged block that does not loop, else EXHAUSTED after a 16th frame where fewer than 9 bytes remain at the new
cursor. Only a stream still RUNNING meets the cap: CAP where looping is enabled and `max_frames` frames are out, in the
middle of a block too, else RUNNING (the spec's decisions D13, D14, D15). -/
def Obligations.FrameCapComesAfterBlockEnd : Prop :=
  ∀ s : State, s.seq.status = .running → (s.seq.unit = 0 → s.seq.cursor + 9 ≤ s.mem.len) →
    ∃ t, exec .step s = .next t ∧ t.seq.frames = s.seq.frames + 1 ∧
      t.seq.status =
        if s.seq.unit = 15 ∧ (params.layout s.blk.hdr).endFlag = true ∧
            ¬ ((params.layout s.blk.hdr).loopFlag = true ∧ s.cfg.loopEnabled = true) then .ended
        else if s.seq.unit = 15 ∧ s.mem.len < t.seq.cursor + 9 then .exhausted
        else if s.cfg.loopEnabled = true ∧ s.cfg.maxFrames ≤ t.seq.frames then .cap
        else .running

/-- STEP at a block start where fewer than 9 bytes remain faults: `MemRead` is not defined there (R14). R40 rules such a
state out of every run (the model's choice, log 13). -/
def Obligations.FetchOutsideTheMemoryFaults : Prop :=
  ∀ s : State, s.seq.status = .running → s.seq.unit = 0 → s.mem.len < s.seq.cursor + 9 →
    exec .step s = .fault (.fetchOutside s.seq.cursor)

/-! ### RESET (spec/70_reset_and_hazards.md) -/

/-- RESET (R220, R221) completes from every state and gives the power-on state, with the inputs as they were
(read from R20 and R222 by inference, log 20); of BLK it says nothing, since the spec leaves it unspecified (log 6). -/
def Obligations.ResetRestoresThePowerOnState : Prop :=
  ∀ s : State, ∃ t, exec .reset s = .next t ∧
    t.hist = State.reset.hist ∧ t.env = State.reset.env ∧ t.cfg = State.reset.cfg ∧ t.seq = State.reset.seq ∧
    t.out = State.reset.out ∧ t.decOut = State.reset.decOut ∧
    t.mem = s.mem ∧ t.addrW = s.addrW ∧ t.frameW = s.frameW ∧ t.host = s.host

/-- The reset values the spec gives (R220): history (0, 0), envelope (Attack, 0), every configuration field 0, cursor,
unit and frames 0, IDLE, OUT empty, DEC_OUT sixteen zeros (the spec's decisions D11, D19). -/
def Obligations.ResetStateHoldsTheSpecValues : Prop :=
  State.reset.hist = ⟨0, 0⟩ ∧ State.reset.env = ⟨.attack, 0⟩ ∧ State.reset.cfg = Cfg.zero ∧
  State.reset.seq = { cursor := 0, unit := 0, frames := 0, status := .idle } ∧
  State.reset.out = [] ∧ State.reset.decOut = List.replicate 16 0

/-! ### The step and the host -/

/-- A step runs the decoded instruction: when the host's next move is a command that decodes to `i`, the step is `exec`
of `i` on the state with that move taken off the host's list (the list is the model's choice, log 8). -/
def Obligations.StepRunsTheDecodedCommand : Prop :=
  ∀ (s : State) (code : BitVec 3) (cfgIn : Cfg) (decIn : List Byte) (waiting : List HostMove) (i : Instr),
    s.host = .command code cfgIn decIn :: waiting → decode (.command code cfgIn decIn) = .ok i →
    step s = exec i { s with host := waiting }

/-- A memory the host presents while no stream is RUNNING is what the core reads from then on: its bytes at offsets from
0, nothing at its length or beyond, in canonical form; nothing else changes (logs 8, 10, 11). -/
def Obligations.PresentedMemoryReadsBack : Prop :=
  ∀ (s : State) (bytes : List Byte) (waiting : List HostMove),
    s.host = .present bytes :: waiting → s.seq.status ≠ .running → bytes.length ≤ 2 ^ s.addrW →
    ∃ t, step s = .next t ∧ t = { s with host := waiting, mem := t.mem } ∧
      t.mem.len = bytes.length ∧ t.mem.wf = true ∧ ∀ a, t.mem.read a = bytes[a]?

/-- The host has no move that changes the memory of a RUNNING stream (R225), nor one that presents more than `2^ADDR_W`
bytes (R7); and with no move of the host the core keeps all its state (R214). The refusals are the model's choice (log
10). -/
def Obligations.HostMovesOutsideTheRulesAreRefused : Prop :=
  ∀ (s : State) (bytes : List Byte) (waiting : List HostMove),
    (s.host = [] → step s = .next s) ∧
    (s.host = .present bytes :: waiting → s.seq.status = .running → step s = .refused .memWhileRunning) ∧
    (s.host = .present bytes :: waiting → s.seq.status ≠ .running → 2 ^ s.addrW < bytes.length →
      step s = .refused .memTooLong)

/-- What stands on `CFG_IN` matters to CONFIG alone (R226), and what stands on `DEC_IN` to DECODE alone (R36). -/
def Obligations.PortsMatterOnlyToTheirCommand : Prop :=
  ∀ (s : State) (code : BitVec 3) (c₁ c₂ : Cfg) (d₁ d₂ : List Byte) (waiting : List HostMove),
    (code ≠ 0b001 → code ≠ 0b111 →
      step { s with host := .command code c₁ d₁ :: waiting } = step { s with host := .command code c₂ d₂ :: waiting }) ∧
    step { s with host := .command 0b001 c₁ d₁ :: waiting } = step { s with host := .command 0b001 c₁ d₂ :: waiting } ∧
    step { s with host := .command 0b111 c₁ d₁ :: waiting } = step { s with host := .command 0b111 c₂ d₁ :: waiting }

/-! ### Whole-machine rules -/

/-- No command writes the sample memory (R51): every byte reads after as before. Nor does one write another input (R20,
R36): that the widths and the host's moves still to come are fields of State is the model's choice (logs 8, 12), and that
RESET keeps them and the memory presented is read from R20 and R222 by inference (log 20). -/
def Obligations.NoCommandWritesTheMemory : Prop :=
  ∀ (i : Instr) (s t : State), exec i s = .next t →
    (∀ a, t.mem.read a = s.mem.read a) ∧ t.mem = s.mem ∧ t.addrW = s.addrW ∧ t.frameW = s.frameW ∧ t.host = s.host

/-- Which commands may write a register; every other command that completes leaves it as it was. HIST: STEP, DECODE, a
BRR block, START, RESET (R23). ENV: KEY_ON, KEY_OFF, ENV_TICK, STEP, START, RESET (R24, R140). CFG: CONFIG, RESET (R27).
SEQ: START, STEP, RESET (R28 to R30, R33). BLK: STEP, RESET (R31). DEC_OUT: DECODE, a BRR block (log 14), RESET
(R35). -/
def Obligations.RegistersHaveTheirWriters : Prop :=
  ∀ (i : Instr) (s t : State), exec i s = .next t → i ≠ .reset →
    ((i = .keyOn ∨ i = .keyOff ∨ i = .envTick ∨ ∃ c, i = .config c) → t.hist = s.hist) ∧
    (i ≠ .keyOn → i ≠ .keyOff → i ≠ .envTick → i ≠ .step → i ≠ .start → t.env = s.env) ∧
    ((∀ c, i ≠ .config c) → t.cfg = s.cfg) ∧
    (i ≠ .start → i ≠ .step → t.seq = s.seq) ∧
    (i ≠ .step → t.blk = s.blk) ∧
    ((i = .start ∨ i = .step ∨ i = .keyOn ∨ i = .keyOff ∨ i = .envTick ∨ ∃ c, i = .config c) → t.decOut = s.decOut)

/-- R34: OUT is emptied by START and RESET; any other command only appends to it, one int16 value for each STEP of a
RUNNING stream, and nothing else; at reset it is empty. -/
def Obligations.OutputIsAppendOnly : Prop :=
  State.reset.out = [] ∧
  ∀ (i : Instr) (s t : State), exec i s = .next t →
    (i = .start ∨ i = .reset → t.out = []) ∧
    (i = .step → s.seq.status = .running → ∃ o, InInt16 o ∧ t.out = s.out ++ [o]) ∧
    (i = .step → s.seq.status ≠ .running → t.out = s.out) ∧
    (i ≠ .start → i ≠ .reset → i ≠ .step → t.out = s.out)

/-- A terminal status stays until START or RESET (R208; the spec's decision D18). -/
def Obligations.TerminalStatusStaysUntilStartOrReset : Prop :=
  ∀ (i : Instr) (s t : State), isTerminal s.seq.status = true → exec i s = .next t → i ≠ .start → i ≠ .reset →
    t.seq = s.seq ∧ t.out = s.out

/-- HIST, OUT and DEC_OUT stay in their ranges under EVERY reading of the parameters, allowed or not (R22, R34, R35),
after a STEP and after a whole block, the two writers of HIST that decode (R23): nothing rests on the layout, the high
shift or a rounding. -/
def Obligations.RangesHoldUnderEveryReading : Prop :=
  ∀ (P : Params) (s t : State), InInt16 s.hist.prev1 → InInt16 s.hist.prev2 → (∀ v ∈ s.out, InInt16 v) →
    (streamStep P s = .next t → InInt16 t.hist.prev1 ∧ InInt16 t.hist.prev2 ∧ ∀ v ∈ t.out, InInt16 v) ∧
    (∀ (f : Header) (d : BlockData), (decodeBlockFields P f d s.hist).1.length = 16 ∧
      InInt16 (decodeBlockFields P f d s.hist).2.prev1 ∧ InInt16 (decodeBlockFields P f d s.hist).2.prev2 ∧
      ∀ v ∈ (decodeBlockFields P f d s.hist).1, -65536 ≤ v ∧ v ≤ 65534 ∧ v % 2 = 0)

/-- The state read port presents each phase and each status under its code of R24 and R33, and every other field as the
register it is (R37; the spec's decisions D20, D21, D24). -/
def Obligations.ReadPortCodesAreFaithful : Prop :=
  ∀ s : State,
    ((s.env.phase = .attack ↔ (readPort s).phase = 0) ∧ (s.env.phase = .decay ↔ (readPort s).phase = 1) ∧
      (s.env.phase = .sustain ↔ (readPort s).phase = 2) ∧ (s.env.phase = .release ↔ (readPort s).phase = 3)) ∧
    ((s.seq.status = .idle ↔ (readPort s).status = 0) ∧ (s.seq.status = .running ↔ (readPort s).status = 1) ∧
      (s.seq.status = .ended ↔ (readPort s).status = 2) ∧ (s.seq.status = .cap ↔ (readPort s).status = 3) ∧
      (s.seq.status = .exhausted ↔ (readPort s).status = 4)) ∧
    (readPort s).prev1 = s.hist.prev1 ∧ (readPort s).prev2 = s.hist.prev2 ∧ (readPort s).level = s.env.level ∧
    (readPort s).cfg = s.cfg ∧ (readPort s).cursor = s.seq.cursor ∧ (readPort s).unit = s.seq.unit ∧
    (readPort s).frames = s.seq.frames ∧ (readPort s).blk = s.blk ∧ (readPort s).out = s.out ∧
    (readPort s).decOut = s.decOut

/-! ### Invariants and streams -/

/-- The state right after reset is safe, and its stream counters are as the invariant says. -/
def Obligations.ResetStateIsSafe : Prop :=
  Safe State.reset ∧ StreamCounters State.reset

/-- Every step keeps the safe states: every register in the range the spec gives it, the memory in canonical form, and
`cursor + 9 <= L` while RUNNING (R22, R25, R26, R34, R35, R40). It holds of every safe state, reached by a run or
not. -/
def Obligations.EveryStepKeepsSafety : Prop :=
  ∀ s t : State, Safe s → step s = .next t → Safe t

/-- Every step keeps the counters of a stream: OUT has `frames` entries, the unit is `frames` modulo 16, END and
EXHAUSTED come at a block boundary (R187), and a RUNNING stream is below its bound (R186). -/
def Obligations.EveryStepKeepsStreamCounters : Prop :=
  ∀ s t : State, StreamCounters s → step s = .next t → StreamCounters t

/-- No run from a safe state faults by fetching outside the memory: a step from a safe state never answers that fault,
and the only fault left is MalformedBlock (R200). -/
def Obligations.SafeStatesOnlyFaultOnMalformedBlocks : Prop :=
  ∀ (s : State) (r : Fault), Safe s → step s = .fault r → ∃ n, r = .malformedBlock n ∧ n ≠ 9

/-- R186 (marked derived in the spec): with looping disabled a stream ends with END or EXHAUSTED after at most `16 * floor(L / 9)` STEPs, at a block
boundary. -/
def Obligations.NonLoopingStreamsEnd : Prop :=
  ∀ s : State, s.cfg.loopEnabled = false →
    ∃ (t u : State) (n : Nat), exec .start s = .next t ∧ n ≤ 16 * (s.mem.len / 9) ∧ repeatExec .step n t = .next u ∧
      (u.seq.status = .ended ∨ u.seq.status = .exhausted) ∧ u.seq.frames = n ∧ n % 16 = 0

/-- R186 (marked derived in the spec): with looping enabled a stream ends with END, CAP or EXHAUSTED after at most `max_frames` STEPs, and CAP comes
exactly at `max_frames` frames. -/
def Obligations.LoopingStreamsEnd : Prop :=
  ∀ s : State, s.cfg.loopEnabled = true →
    ∃ (t u : State) (n : Nat), exec .start s = .next t ∧ n ≤ s.cfg.maxFrames ∧ repeatExec .step n t = .next u ∧
      isTerminal u.seq.status = true ∧ u.seq.frames = n ∧ (u.seq.status = .cap → n = s.cfg.maxFrames)

/-- R185 (marked derived in the spec): block-at-once equivalence. The 16 STEPs of a block that the frame cap does not cut short latch the block at
the cursor, leave the history `DecodeBlock` leaves, tick the envelope 16 times, and append the 16 emissions of
`DecodeBlock`, each scaled with the level of its own tick. -/
def Obligations.SixteenStepsDecodeTheBlockAtOnce : Prop :=
  ∀ s : State, s.seq.status = .running → s.seq.unit = 0 → s.seq.cursor + 9 ≤ s.mem.len →
    (s.cfg.loopEnabled = true → s.seq.frames + 16 ≤ s.cfg.maxFrames) →
    ∃ (t : State) (b : Block), repeatExec .step 16 s = .next t ∧ s.mem.block s.seq.cursor = some b ∧
      t = { s with
        blk := b
        hist := (decodeBlock params b.hdr b.data s.hist).2
        env := envTicks s.cfg 16 s.env
        out := s.out ++ List.zipWith (fun k d => applyGain params s.cfg (envTicks s.cfg (k + 1) s.env) d)
          (List.range 16) (decodeBlock params b.hdr b.data s.hist).1
        seq := t.seq } ∧
      t.seq.unit = 0 ∧ t.seq.frames = s.seq.frames + 16
end

