-- ==== Sys2Proof/Laws/Arith.lean ====
section
/-!
SUPPORT. What each arithmetic function of one unit and of the envelope can answer, said once.
-/

namespace Sys2Proof.Laws

open Sys2Proof.Machine

/-- The clamp answers an int16 for every integer. -/
theorem clamp16_inInt16 (v : Int) : InInt16 (clamp16 v) := by
  unfold clamp16 InInt16; omega

/-- The clamp leaves an int16 as it is. -/
theorem clamp16_of_inInt16 {v : Int} (h : InInt16 v) : clamp16 v = v := by
  unfold clamp16; unfold InInt16 at h; omega

/-- The signed value of a raw unit lies in -8..7. -/
theorem sext4_range (n : BitVec 4) : -8 ≤ sext4 n ∧ sext4 n ≤ 7 := by
  have h := n.isLt
  unfold sext4; split <;> omega

/-- The signed unit lies in -8..7. -/
theorem unitValue_range (d : BlockData) (i : Fin 16) : -8 ≤ unitValue d i ∧ unitValue d i ≤ 7 :=
  sext4_range _

/-- The history after a unit: the clamped sum, then the former `prev1`. -/
theorem decodeUnitFields_hist (P : Params) (f : Header) (d : BlockData) (i : Fin 16) (h : Hist) :
    (decodeUnitFields P f d i h).2 =
      ⟨clamp16 (shiftStage P f.shift (unitValue d i) + filterTerm P f.filter h), h.prev1⟩ := rfl

/-- The emission of a unit is twice the sample the history keeps. -/
theorem decodeUnitFields_emission (P : Params) (f : Header) (d : BlockData) (i : Fin 16) (h : Hist) :
    (decodeUnitFields P f d i h).1 = 2 * (decodeUnitFields P f d i h).2.prev1 := rfl

/-- A list of units gives one emission each. -/
theorem decodeUnits_length (P : Params) (f : Header) (d : BlockData) (us : List (Fin 16)) (h : Hist) :
    (decodeUnits P f d us h).1.length = us.length := by
  induction us generalizing h with
  | nil => rfl
  | cons i rest ih => simp [decodeUnits, ih]

/-- Two lists of units in a row: the second continues from the history the first leaves. -/
theorem decodeUnits_append (P : Params) (f : Header) (d : BlockData) (us vs : List (Fin 16)) (h : Hist) :
    decodeUnits P f d (us ++ vs) h =
      ((decodeUnits P f d us h).1 ++ (decodeUnits P f d vs (decodeUnits P f d us h).2).1,
        (decodeUnits P f d vs (decodeUnits P f d us h).2).2) := by
  induction us generalizing h with
  | nil => rfl
  | cons i rest ih => simp [decodeUnits, ih]

/-- The exponential decrement in natural numbers: 1 or `(level - 1) / 256` down, whichever is more, and never below 0. -/
theorem expDec_eq (level : Nat) : expDec level = level - max 1 ((level - 1) / 256) := by
  have h : ((2 ^ 8 : Nat) : Int) = 256 := by decide
  unfold expDec asr
  rw [h]
  omega

/-- The decrement never raises the level. -/
theorem expDec_le (level : Nat) : expDec level ≤ level := by
  rw [expDec_eq]; omega

/-- The level after an Attack tick. -/
theorem attackTick_level (c : Cfg) (e : Env) :
    (attackTick c e).level = if 2047 ≤ e.level + (if c.attackRate = 15 then 1024 else 32) then 2047
      else e.level + (if c.attackRate = 15 then 1024 else 32) := by
  show (if 2047 ≤ e.level + (if c.attackRate = 15 then 1024 else 32) then (⟨.decay, 2047⟩ : Env)
    else ⟨.attack, e.level + (if c.attackRate = 15 then 1024 else 32)⟩).level = _
  rw [apply_ite Env.level]

/-- A tick leaves the configuration's range of levels as it is. -/
theorem envTick_level_le (c : Cfg) (e : Env) (h : e.level ≤ 2047) : (envTick c e).level ≤ 2047 := by
  have hd := expDec_le e.level
  unfold envTick
  split
  · split
    · rw [attackTick_level]; split <;> split <;> omega
    · unfold decayTick
      simp only
      split <;> exact Nat.le_trans hd h
    · unfold sustainTick; simp only; split <;> omega
    · unfold releaseTick; simp only; omega
  · exact h

/-- A disabled envelope does not change on a tick. -/
theorem envTick_disabled {c : Cfg} (h : c.envEnabled = false) (e : Env) : envTick c e = e := by
  simp [envTick, h]

/-- The gain stage answers an int16 under every parameter. -/
theorem applyGain_inInt16 (P : Params) (c : Cfg) (e : Env) (d : Int) : InInt16 (applyGain P c e d) := by
  unfold applyGain; split <;> exact clamp16_inInt16 _

end Sys2Proof.Laws
end

