-- ==== Sys2Proof/Laws/Memory.lean ====
section
/-!
SUPPORT. The sample memory: every operation keeps its canonical form, and what is presented is what is read.
-/

namespace Sys2Proof.Laws

open Sys2Proof.Machine

/-- A lower first offset is admitted too. -/
theorem cellsWf_mono {len lo lo' : Nat} (h : lo' ≤ lo) {cs : List Host.Cell}
    (hw : Memory.cellsWf len lo cs = true) : Memory.cellsWf len lo' cs = true := by
  cases cs with
  | nil => rfl
  | cons c rest =>
    obtain ⟨a, v⟩ := c
    simp only [Memory.cellsWf, Bool.and_eq_true, decide_eq_true_eq] at hw ⊢
    exact ⟨⟨⟨by omega, hw.1.1.2⟩, hw.1.2⟩, hw.2⟩

/-- The cells of a byte list are in canonical form. -/
theorem cellsOfBytes_wf (bytes : List Byte) (a len : Nat) (h : a + bytes.length ≤ len) :
    Memory.cellsWf len a (cellsOfBytes a bytes) = true := by
  induction bytes generalizing a with
  | nil => rfl
  | cons b rest ih =>
    simp only [List.length_cons] at h
    have ih' := ih (a + 1) (by omega)
    unfold cellsOfBytes
    split
    · exact cellsWf_mono (Nat.le_succ a) ih'
    · rename_i hb
      simp only [Memory.cellsWf, ih', Bool.and_true, Bool.and_eq_true, decide_eq_true_eq]
      exact ⟨⟨Nat.le_refl a, by omega⟩, hb⟩

/-- A presented memory is in canonical form. -/
theorem ofBytes_wf (bytes : List Byte) : (Memory.ofBytes bytes).wf = true :=
  cellsOfBytes_wf bytes 0 bytes.length (by omega)

/-- Below the first offset the cells of a byte list hold nothing. -/
theorem cellsAt_cellsOfBytes_below (bytes : List Byte) (a k : Nat) (h : k < a) :
    cellsAt (cellsOfBytes a bytes) k = Memory.unlisted := by
  induction bytes generalizing a with
  | nil => rfl
  | cons b rest ih =>
    unfold cellsOfBytes
    split
    · exact ih (a + 1) (by omega)
    · simp only [cellsAt, if_neg (by omega : ¬ a = k)]
      exact ih (a + 1) (by omega)

/-- The cells of a byte list hold its bytes. -/
theorem cellsAt_cellsOfBytes (bytes : List Byte) (a k : Nat) :
    cellsAt (cellsOfBytes a bytes) (a + k) = bytes.getD k Memory.unlisted := by
  induction bytes generalizing a k with
  | nil => simp [cellsOfBytes, cellsAt]
  | cons b rest ih =>
    unfold cellsOfBytes
    cases k with
    | zero =>
      split
      · rename_i hb
        rw [cellsAt_cellsOfBytes_below rest (a + 1) (a + 0) (by omega)]
        simp [hb]
      · simp [cellsAt]
    | succ k =>
      have e : a + (k + 1) = (a + 1) + k := by omega
      split
      · rw [e, ih (a + 1) k]; simp
      · simp only [cellsAt, if_neg (by omega : ¬ a = a + (k + 1))]
        rw [e, ih (a + 1) k]; simp

/-- Where 9 bytes remain, the fetched block is those bytes. -/
theorem block_of_le {m : Memory} {a : Nat} (h : a + 9 ≤ m.len) :
    ∃ b, m.block a = some b ∧ ∀ k < 9, m.read (a + k) = b.toBytes[k]? := by
  refine ⟨_, if_pos h, ?_⟩
  intro k hk
  have hr : m.read (a + k) = some (cellsAt m.cells (a + k)) := if_pos (by omega)
  rw [hr]
  have : k = 0 ∨ k = 1 ∨ k = 2 ∨ k = 3 ∨ k = 4 ∨ k = 5 ∨ k = 6 ∨ k = 7 ∨ k = 8 := by omega
  rcases this with rfl | rfl | rfl | rfl | rfl | rfl | rfl | rfl | rfl <;> rfl

/-- Where fewer remain, nothing is fetched. -/
theorem block_of_gt {m : Memory} {a : Nat} (h : m.len < a + 9) : m.block a = none :=
  if_neg (by omega)

/-- The memory at reset is in canonical form. -/
theorem reset_mem_wf : State.reset.mem.wf = true := rfl

end Sys2Proof.Laws
end

