-- ==== Sys2Proof/Laws/State.lean ====
section
/-!
SUPPORT. One lemma for each field of State under each update, so that no later proof unfolds a record update.
-/

namespace Sys2Proof.Laws

open Sys2Proof.Machine

variable (s : State) (c : Nat) (u : Fin 16) (st : Status) (P : Params)

/-! ### `cursor <- c` -/

@[simp] theorem setCursor_hist : (s.setCursor c).hist = s.hist := rfl
@[simp] theorem setCursor_env : (s.setCursor c).env = s.env := rfl
@[simp] theorem setCursor_cfg : (s.setCursor c).cfg = s.cfg := rfl
@[simp] theorem setCursor_cursor : (s.setCursor c).seq.cursor = c := rfl
@[simp] theorem setCursor_unit : (s.setCursor c).seq.unit = s.seq.unit := rfl
@[simp] theorem setCursor_frames : (s.setCursor c).seq.frames = s.seq.frames := rfl
@[simp] theorem setCursor_status : (s.setCursor c).seq.status = s.seq.status := rfl
@[simp] theorem setCursor_blk : (s.setCursor c).blk = s.blk := rfl
@[simp] theorem setCursor_out : (s.setCursor c).out = s.out := rfl
@[simp] theorem setCursor_decOut : (s.setCursor c).decOut = s.decOut := rfl
@[simp] theorem setCursor_mem : (s.setCursor c).mem = s.mem := rfl
@[simp] theorem setCursor_addrW : (s.setCursor c).addrW = s.addrW := rfl
@[simp] theorem setCursor_frameW : (s.setCursor c).frameW = s.frameW := rfl
@[simp] theorem setCursor_host : (s.setCursor c).host = s.host := rfl
@[simp] theorem setCursor_draws : (s.setCursor c).draws = s.draws := rfl

/-! ### `unit <- u` -/

@[simp] theorem setUnit_hist : (s.setUnit u).hist = s.hist := rfl
@[simp] theorem setUnit_env : (s.setUnit u).env = s.env := rfl
@[simp] theorem setUnit_cfg : (s.setUnit u).cfg = s.cfg := rfl
@[simp] theorem setUnit_cursor : (s.setUnit u).seq.cursor = s.seq.cursor := rfl
@[simp] theorem setUnit_unit : (s.setUnit u).seq.unit = u := rfl
@[simp] theorem setUnit_frames : (s.setUnit u).seq.frames = s.seq.frames := rfl
@[simp] theorem setUnit_status : (s.setUnit u).seq.status = s.seq.status := rfl
@[simp] theorem setUnit_blk : (s.setUnit u).blk = s.blk := rfl
@[simp] theorem setUnit_out : (s.setUnit u).out = s.out := rfl
@[simp] theorem setUnit_decOut : (s.setUnit u).decOut = s.decOut := rfl
@[simp] theorem setUnit_mem : (s.setUnit u).mem = s.mem := rfl
@[simp] theorem setUnit_addrW : (s.setUnit u).addrW = s.addrW := rfl
@[simp] theorem setUnit_frameW : (s.setUnit u).frameW = s.frameW := rfl
@[simp] theorem setUnit_host : (s.setUnit u).host = s.host := rfl
@[simp] theorem setUnit_draws : (s.setUnit u).draws = s.draws := rfl

/-! ### `status <- S` -/

@[simp] theorem setStatus_hist : (s.setStatus st).hist = s.hist := rfl
@[simp] theorem setStatus_env : (s.setStatus st).env = s.env := rfl
@[simp] theorem setStatus_cfg : (s.setStatus st).cfg = s.cfg := rfl
@[simp] theorem setStatus_cursor : (s.setStatus st).seq.cursor = s.seq.cursor := rfl
@[simp] theorem setStatus_unit : (s.setStatus st).seq.unit = s.seq.unit := rfl
@[simp] theorem setStatus_frames : (s.setStatus st).seq.frames = s.seq.frames := rfl
@[simp] theorem setStatus_status : (s.setStatus st).seq.status = st := rfl
@[simp] theorem setStatus_blk : (s.setStatus st).blk = s.blk := rfl
@[simp] theorem setStatus_out : (s.setStatus st).out = s.out := rfl
@[simp] theorem setStatus_decOut : (s.setStatus st).decOut = s.decOut := rfl
@[simp] theorem setStatus_mem : (s.setStatus st).mem = s.mem := rfl
@[simp] theorem setStatus_addrW : (s.setStatus st).addrW = s.addrW := rfl
@[simp] theorem setStatus_frameW : (s.setStatus st).frameW = s.frameW := rfl
@[simp] theorem setStatus_host : (s.setStatus st).host = s.host := rfl
@[simp] theorem setStatus_draws : (s.setStatus st).draws = s.draws := rfl

theorem setStatus_self : s.setStatus s.seq.status = s := rfl

/-! ### A frame emitted -/

@[simp] theorem emitFrame_hist :
    (emitFrame P s).hist = (decodeUnit P s.blk.hdr s.blk.data s.seq.unit s.hist).2 := rfl
@[simp] theorem emitFrame_env : (emitFrame P s).env = envTick s.cfg s.env := rfl
@[simp] theorem emitFrame_cfg : (emitFrame P s).cfg = s.cfg := rfl
@[simp] theorem emitFrame_cursor : (emitFrame P s).seq.cursor = s.seq.cursor := rfl
@[simp] theorem emitFrame_unit : (emitFrame P s).seq.unit = s.seq.unit := rfl
@[simp] theorem emitFrame_frames : (emitFrame P s).seq.frames = s.seq.frames + 1 := rfl
@[simp] theorem emitFrame_status : (emitFrame P s).seq.status = s.seq.status := rfl
@[simp] theorem emitFrame_blk : (emitFrame P s).blk = s.blk := rfl
@[simp] theorem emitFrame_out :
    (emitFrame P s).out = s.out ++ [applyGain P s.cfg (envTick s.cfg s.env)
      (decodeUnit P s.blk.hdr s.blk.data s.seq.unit s.hist).1] := rfl
@[simp] theorem emitFrame_decOut : (emitFrame P s).decOut = s.decOut := rfl
@[simp] theorem emitFrame_mem : (emitFrame P s).mem = s.mem := rfl
@[simp] theorem emitFrame_addrW : (emitFrame P s).addrW = s.addrW := rfl
@[simp] theorem emitFrame_frameW : (emitFrame P s).frameW = s.frameW := rfl
@[simp] theorem emitFrame_host : (emitFrame P s).host = s.host := rfl
@[simp] theorem emitFrame_draws : (emitFrame P s).draws = s.draws := rfl

/-! ### A stream begun -/

@[simp] theorem freshStream_hist : (freshStream s).hist = ⟨0, 0⟩ := rfl
@[simp] theorem freshStream_env : (freshStream s).env = ⟨.attack, 0⟩ := rfl
@[simp] theorem freshStream_cfg : (freshStream s).cfg = s.cfg := rfl
@[simp] theorem freshStream_seq : (freshStream s).seq = ⟨0, 0, 0, .running⟩ := rfl
@[simp] theorem freshStream_blk : (freshStream s).blk = s.blk := rfl
@[simp] theorem freshStream_out : (freshStream s).out = [] := rfl
@[simp] theorem freshStream_decOut : (freshStream s).decOut = s.decOut := rfl
@[simp] theorem freshStream_mem : (freshStream s).mem = s.mem := rfl
@[simp] theorem freshStream_addrW : (freshStream s).addrW = s.addrW := rfl
@[simp] theorem freshStream_frameW : (freshStream s).frameW = s.frameW := rfl
@[simp] theorem freshStream_host : (freshStream s).host = s.host := rfl
@[simp] theorem freshStream_draws : (freshStream s).draws = s.draws := rfl

/-! ### A block decoded to DEC_OUT -/

variable (f : Header) (d : BlockData)

@[simp] theorem blockToDecOut_hist :
    (blockToDecOut P f d s).hist = (decodeBlockFields P f d s.hist).2 := rfl
@[simp] theorem blockToDecOut_env : (blockToDecOut P f d s).env = s.env := rfl
@[simp] theorem blockToDecOut_cfg : (blockToDecOut P f d s).cfg = s.cfg := rfl
@[simp] theorem blockToDecOut_seq : (blockToDecOut P f d s).seq = s.seq := rfl
@[simp] theorem blockToDecOut_blk : (blockToDecOut P f d s).blk = s.blk := rfl
@[simp] theorem blockToDecOut_out : (blockToDecOut P f d s).out = s.out := rfl
@[simp] theorem blockToDecOut_decOut :
    (blockToDecOut P f d s).decOut = (decodeBlockFields P f d s.hist).1 := rfl
@[simp] theorem blockToDecOut_mem : (blockToDecOut P f d s).mem = s.mem := rfl
@[simp] theorem blockToDecOut_addrW : (blockToDecOut P f d s).addrW = s.addrW := rfl
@[simp] theorem blockToDecOut_frameW : (blockToDecOut P f d s).frameW = s.frameW := rfl
@[simp] theorem blockToDecOut_host : (blockToDecOut P f d s).host = s.host := rfl
@[simp] theorem blockToDecOut_draws : (blockToDecOut P f d s).draws = s.draws := rfl

/-! ### A tick -/

@[simp] theorem tickEnvelope_env : (tickEnvelope s).env = envTick s.cfg s.env := rfl
@[simp] theorem tickEnvelope_hist : (tickEnvelope s).hist = s.hist := rfl
@[simp] theorem tickEnvelope_cfg : (tickEnvelope s).cfg = s.cfg := rfl
@[simp] theorem tickEnvelope_seq : (tickEnvelope s).seq = s.seq := rfl
@[simp] theorem tickEnvelope_blk : (tickEnvelope s).blk = s.blk := rfl
@[simp] theorem tickEnvelope_out : (tickEnvelope s).out = s.out := rfl
@[simp] theorem tickEnvelope_decOut : (tickEnvelope s).decOut = s.decOut := rfl
@[simp] theorem tickEnvelope_mem : (tickEnvelope s).mem = s.mem := rfl
@[simp] theorem tickEnvelope_addrW : (tickEnvelope s).addrW = s.addrW := rfl
@[simp] theorem tickEnvelope_frameW : (tickEnvelope s).frameW = s.frameW := rfl
@[simp] theorem tickEnvelope_host : (tickEnvelope s).host = s.host := rfl
@[simp] theorem tickEnvelope_draws : (tickEnvelope s).draws = s.draws := rfl

end Sys2Proof.Laws
end

