-- ==== Sys2Proof/Laws/Ops.lean ====
section
/-!
SUPPORT. One lemma for each shared operation that says everything it can do, cited in place of unfolding it.
-/

namespace Sys2Proof.Laws

open Sys2Proof.Machine

/-! ### Ending a stream -/

/-- The fetch check writes the status alone. -/
theorem fetchCheck_eq (s : State) :
    fetchCheck s = s.setStatus (if s.mem.len < s.seq.cursor + 9 then .exhausted else s.seq.status) := by
  unfold fetchCheck endStream
  by_cases h : s.mem.len < s.seq.cursor + 9
  · simp [h]
  · simp [h, setStatus_self]

/-- The frame cap writes the status alone. -/
theorem frameCap_eq (s : State) :
    frameCap s = s.setStatus
      (if s.seq.status = .running ∧ s.cfg.loopEnabled = true ∧ s.cfg.maxFrames ≤ s.seq.frames then .cap
       else s.seq.status) := by
  unfold frameCap endStream
  split
  · rfl
  · exact (setStatus_self s).symm

/-- Block-end control writes the cursor and the status alone. -/
theorem blockEnd_cases (P : Params) (s : State) :
    (blockEndKind (P.layout s.blk.hdr) s.cfg.loopEnabled = .loopJump ∧
      blockEnd P s = fetchCheck (s.setCursor s.cfg.loopStart)) ∨
    (blockEndKind (P.layout s.blk.hdr) s.cfg.loopEnabled = .finish ∧ blockEnd P s = s.setStatus .ended) ∨
    (blockEndKind (P.layout s.blk.hdr) s.cfg.loopEnabled = .advance ∧
      blockEnd P s = fetchCheck (s.setCursor (s.seq.cursor + 9))) := by
  unfold blockEnd endStream
  cases blockEndKind (P.layout s.blk.hdr) s.cfg.loopEnabled
  · exact .inl ⟨rfl, rfl⟩
  · exact .inr (.inl ⟨rfl, rfl⟩)
  · exact .inr (.inr ⟨rfl, rfl⟩)

/-- Block-end control ends the stream exactly at an end flag that does not loop (R179). -/
theorem blockEndKind_eq_finish (h : Header) (loopEnabled : Bool) :
    blockEndKind h loopEnabled = .finish ↔ h.endFlag = true ∧ ¬ (h.loopFlag = true ∧ loopEnabled = true) := by
  unfold blockEndKind
  cases h.endFlag <;> cases h.loopFlag <;> cases loopEnabled <;> simp

/-- The cursor a finished frame leaves. -/
def nextCursor (P : Params) (s : State) : Nat :=
  if s.seq.unit = 15 then
    match blockEndKind (P.layout s.blk.hdr) s.cfg.loopEnabled with
    | .loopJump => s.cfg.loopStart
    | .finish   => s.seq.cursor
    | .advance  => s.seq.cursor + 9
  else s.seq.cursor

/-- The status a finished frame of a RUNNING stream leaves: block-end control first, then the cap (R206). -/
def nextStatus (P : Params) (s : State) : Status :=
  if s.seq.unit = 15 ∧ blockEndKind (P.layout s.blk.hdr) s.cfg.loopEnabled = .finish then .ended
  else if s.seq.unit = 15 ∧ s.mem.len < nextCursor P s + 9 then .exhausted
  else if s.cfg.loopEnabled = true ∧ s.cfg.maxFrames ≤ s.seq.frames then .cap
  else .running

/-- What unit advance, block-end control and the cap do together to a RUNNING stream: they write the sequencer's cursor,
unit and status, and nothing else. -/
theorem frameCap_advanceUnit {s : State} (P : Params) (h : s.seq.status = .running) :
    frameCap (advanceUnit P s) =
      { s with seq := ⟨nextCursor P s, s.seq.unit + 1, s.seq.frames, nextStatus P s⟩ } := by
  obtain ⟨hist, env, cfg, ⟨cursor, unit, frames, status⟩, blk, out, decOut, mem, addrW, frameW, host, draws⟩ := s
  simp only at h
  subst h
  unfold advanceUnit nextStatus nextCursor
  by_cases hu : unit = 15
  · subst hu
    simp only [if_true, true_and]
    rcases blockEnd_cases P (State.setUnit
        ⟨hist, env, cfg, ⟨cursor, 15, frames, .running⟩, blk, out, decOut, mem, addrW, frameW, host, draws⟩ 0) with
      ⟨hk, he⟩ | ⟨hk, he⟩ | ⟨hk, he⟩
    · rw [he]
      simp only [setUnit_blk, setUnit_cfg] at hk
      by_cases hm : mem.len < cfg.loopStart + 9 <;>
      · simp only [hk, hm, frameCap_eq, fetchCheck_eq, setStatus_status, setStatus_cfg, setStatus_frames,
          setCursor_status, setCursor_cfg, setCursor_frames, setUnit_status, setUnit_cfg, setUnit_frames,
          setCursor_cursor, setCursor_mem, setUnit_mem,
          reduceCtorEq, false_and, true_and, if_false, if_true]
        rfl
    · rw [he]
      simp only [setUnit_blk, setUnit_cfg] at hk
      simp only [hk, frameCap_eq, setStatus_status, reduceCtorEq, false_and, if_false, if_true]
      rfl
    · rw [he]
      simp only [setUnit_blk, setUnit_cfg] at hk
      by_cases hm : mem.len < cursor + 9 + 9 <;>
      · simp only [hk, hm, frameCap_eq, fetchCheck_eq, setStatus_status, setStatus_cfg, setStatus_frames,
          setCursor_status, setCursor_cfg, setCursor_frames, setUnit_status, setUnit_cfg, setUnit_frames,
          setCursor_cursor, setCursor_mem, setUnit_cursor, setUnit_mem,
          reduceCtorEq, false_and, true_and, if_false, if_true]
        rfl
  · simp only [hu, false_and, if_false, frameCap_eq]
    simp only [setUnit_status, setUnit_cfg, setUnit_frames, true_and]
    rfl

/-- STEP of a RUNNING stream: the latch, then the frame, then the sequencer. -/
theorem streamStep_running {s : State} (P : Params) (h : s.seq.status = .running) {s₁ : State}
    (hl : latchBlock s = some s₁) :
    streamStep P s = .next
      { emitFrame P s₁ with
        seq := ⟨nextCursor P (emitFrame P s₁), s₁.seq.unit + 1, s₁.seq.frames + 1,
                nextStatus P (emitFrame P s₁)⟩ } := by
  have hs : s₁.seq = s.seq := by
    unfold latchBlock at hl
    split at hl
    · cases hb : s.mem.block s.seq.cursor with
      | none => simp [hb] at hl
      | some b => rw [hb] at hl; cases hl; rfl
    · cases hl; rfl
  unfold streamStep
  rw [if_pos h, hl]
  simp only
  rw [frameCap_advanceUnit P (by rw [emitFrame_status, hs]; exact h)]
  rfl

/-- The latch, when it is defined, writes `BLK` alone, and only at unit 0. -/
theorem latchBlock_eq {s s₁ : State} (h : latchBlock s = some s₁) :
    (s.seq.unit = 0 ∧ ∃ b, s.mem.block s.seq.cursor = some b ∧ s₁ = { s with blk := b }) ∨
    (s.seq.unit ≠ 0 ∧ s₁ = s) := by
  unfold latchBlock at h
  split at h
  · rename_i hu
    cases hb : s.mem.block s.seq.cursor with
    | none => simp [hb] at h
    | some b => rw [hb] at h; cases h; exact .inl ⟨hu, b, rfl, rfl⟩
  · rename_i hu
    cases h; exact .inr ⟨hu, rfl⟩

/-- The latch is defined unless a block starts where fewer than 9 bytes remain. -/
theorem latchBlock_defined {s : State} (h : s.seq.unit = 0 → s.seq.cursor + 9 ≤ s.mem.len) :
    ∃ s₁, latchBlock s = some s₁ := by
  unfold latchBlock
  by_cases hu : s.seq.unit = 0
  · obtain ⟨b, hb, -⟩ := block_of_le (h hu)
    exact ⟨_, by rw [if_pos hu, hb]; rfl⟩
  · exact ⟨s, if_neg hu⟩

/-- STEP with no stream RUNNING leaves the state as it is. -/
theorem streamStep_quiet {s : State} (P : Params) (h : s.seq.status ≠ .running) : streamStep P s = .next s :=
  if_neg h

/-- Everything STEP can do. -/
theorem streamStep_cases (P : Params) (s : State) :
    (s.seq.status ≠ .running ∧ streamStep P s = .next s) ∨
    (s.seq.status = .running ∧ latchBlock s = none ∧ streamStep P s = .fault (.fetchOutside s.seq.cursor)) ∨
    (s.seq.status = .running ∧ ∃ s₁, latchBlock s = some s₁ ∧ streamStep P s = .next
      { emitFrame P s₁ with
        seq := ⟨nextCursor P (emitFrame P s₁), s₁.seq.unit + 1, s₁.seq.frames + 1,
                nextStatus P (emitFrame P s₁)⟩ }) := by
  by_cases h : s.seq.status = .running
  · cases hl : latchBlock s with
    | none => exact .inr (.inl ⟨h, rfl, by unfold streamStep; rw [if_pos h, hl]⟩)
    | some s₁ => exact .inr (.inr ⟨h, s₁, rfl, streamStep_running P h hl⟩)
  · exact .inl ⟨h, streamStep_quiet P h⟩

/-! ### The host and the step -/

/-- Everything a presented memory can do. -/
theorem presentMemory_cases (bytes : List Byte) (s : State) :
    (s.seq.status = .running ∧ presentMemory bytes s = .refused .memWhileRunning) ∨
    (s.seq.status ≠ .running ∧ 2 ^ s.addrW < bytes.length ∧ presentMemory bytes s = .refused .memTooLong) ∨
    (s.seq.status ≠ .running ∧ bytes.length ≤ 2 ^ s.addrW ∧
      presentMemory bytes s = .next { s with mem := Memory.ofBytes bytes }) := by
  unfold presentMemory
  by_cases h : s.seq.status = .running
  · exact .inl ⟨h, if_pos h⟩
  · rw [if_neg h]
    by_cases hl : 2 ^ s.addrW < bytes.length
    · exact .inr (.inl ⟨h, hl, if_pos hl⟩)
    · exact .inr (.inr ⟨h, Nat.le_of_not_lt hl, if_neg hl⟩)

/-- Everything a step can do: nothing, a presented memory, or one command. -/
theorem step_cases (s : State) :
    (s.host = [] ∧ step s = .next s) ∨
    (∃ bytes waiting, s.host = .present bytes :: waiting ∧
      step s = presentMemory bytes { s with host := waiting }) ∨
    (∃ code cfgIn decIn waiting, s.host = .command code cfgIn decIn :: waiting ∧
      step s = exec (decodeCommand code cfgIn decIn) { s with host := waiting }) := by
  unfold step nextMove
  cases h : s.host with
  | nil => exact .inl ⟨rfl, rfl⟩
  | cons m waiting =>
    cases m with
    | present bytes => exact .inr (.inl ⟨bytes, waiting, rfl, rfl⟩)
    | command code cfgIn decIn => exact .inr (.inr ⟨code, cfgIn, decIn, waiting, rfl, rfl⟩)

/-- The range check of CONFIG is the syntax's own. -/
theorem cfgInRange_eq_wellFormed (addrW frameW : Nat) (c : Cfg) :
    cfgInRange addrW frameW c = c.wellFormed addrW frameW := rfl

end Sys2Proof.Laws
end

