-- ==== Sys2Proof/Laws/PerInstr.lean ====
section
/-!
SUPPORT. Statements about every instruction as syntax, one lemma for each constructor.
-/

namespace Sys2Proof.Laws.WireFormat

/-- The encoding has the format of the instruction's row: a block of exactly 9 bytes for BRR.F0 to BRR.F3, the row's
3-bit code for a command (spec/30_encoding.md R70 to R72). -/
def Statement (i : Instr) : Prop :=
  match i with
  | .brrF0 _ _ _ _ => ∃ bytes, encode i = .block bytes ∧ bytes.length = 9
  | .brrF1 _ _ _ _ => ∃ bytes, encode i = .block bytes ∧ bytes.length = 9
  | .brrF2 _ _ _ _ => ∃ bytes, encode i = .block bytes ∧ bytes.length = 9
  | .brrF3 _ _ _ _ => ∃ bytes, encode i = .block bytes ∧ bytes.length = 9
  | .reset         => ∃ cfgIn decIn, encode i = .command 0b000 cfgIn decIn
  | .config cfg    => ∃ decIn, encode i = .command 0b001 cfg decIn
  | .start         => ∃ cfgIn decIn, encode i = .command 0b010 cfgIn decIn
  | .step          => ∃ cfgIn decIn, encode i = .command 0b011 cfgIn decIn
  | .keyOn         => ∃ cfgIn decIn, encode i = .command 0b100 cfgIn decIn
  | .keyOff        => ∃ cfgIn decIn, encode i = .command 0b101 cfgIn decIn
  | .envTick       => ∃ cfgIn decIn, encode i = .command 0b110 cfgIn decIn
  | .decode bytes  => ∃ cfgIn, encode i = .command 0b111 cfgIn bytes

theorem brrF0 (shift : BitVec 4) (l e : Bool) (data : BlockData) : Statement (.brrF0 shift l e data) :=
  ⟨_, rfl, rfl⟩
theorem brrF1 (shift : BitVec 4) (l e : Bool) (data : BlockData) : Statement (.brrF1 shift l e data) :=
  ⟨_, rfl, rfl⟩
theorem brrF2 (shift : BitVec 4) (l e : Bool) (data : BlockData) : Statement (.brrF2 shift l e data) :=
  ⟨_, rfl, rfl⟩
theorem brrF3 (shift : BitVec 4) (l e : Bool) (data : BlockData) : Statement (.brrF3 shift l e data) :=
  ⟨_, rfl, rfl⟩
theorem reset : Statement .reset := ⟨_, _, rfl⟩
theorem config (cfg : Cfg) : Statement (.config cfg) := ⟨_, rfl⟩
theorem start : Statement .start := ⟨_, _, rfl⟩
theorem step : Statement .step := ⟨_, _, rfl⟩
theorem keyOn : Statement .keyOn := ⟨_, _, rfl⟩
theorem keyOff : Statement .keyOff := ⟨_, _, rfl⟩
theorem envTick : Statement .envTick := ⟨_, _, rfl⟩
theorem decode (bytes : List Byte) : Statement (.decode bytes) := ⟨_, rfl⟩

end Sys2Proof.Laws.WireFormat
end

