-- ==== Sys2Proof/Tests/Slice0.lean ====
section
/-!
SUPPORT. The model's own tests: the ill-formed terms WellFormed refuses, words written out from the spec's encodings,
small single steps whose expected values stand in spec/95_test_vectors.md, and for each obligation with hypotheses a
state and operands that meet them.
-/

namespace Sys2Proof.Tests

open Sys2Proof Sys2Proof.Machine

/-! ### Helpers -/

/-- Something of the next state, nothing where the answer is a fault or a refusal. -/
def after {α : Type} (f : State → α) (r : Result) : Option α :=
  match r with
  | .next t    => some (f t)
  | .fault _   => none
  | .refused _ => none

/-- The fault of an answer. -/
def faultOf (r : Result) : Option Fault :=
  match r with
  | .next _    => none
  | .fault e   => some e
  | .refused _ => none

/-- The refusal of an answer. -/
def refusalOf (r : Result) : Option Refusal :=
  match r with
  | .next _    => none
  | .fault _   => none
  | .refused e => some e

/-- Eight data bytes of one value. -/
def same (b : Byte) : BlockData := ⟨b, b, b, b, b, b, b, b⟩

/-- A state with this history. -/
def withHist (p1 p2 : Int) : State := { State.reset with hist := ⟨p1, p2⟩ }

/-- A state with an enabled envelope in this phase and at this level. -/
def withEnv (p : Phase) (level : Nat) (attackRate sustainLevel sustainRate : Nat) : State :=
  { State.reset with
    env := ⟨p, level⟩
    cfg := { Cfg.zero with
      envEnabled := true, attackRate := attackRate, sustainLevel := sustainLevel, sustainRate := sustainRate } }

/-- A stream RUNNING over these bytes under this configuration, right after START. -/
def stream (bytes : List Byte) (c : Cfg) : State :=
  { State.reset with
    cfg := c, mem := Memory.ofBytes bytes
    seq := { cursor := 0, unit := 0, frames := 0, status := .running } }

/-- The same stream before its 16th frame, with this block latched. -/
def atUnit15 (b : Block) (bytes : List Byte) (c : Cfg) : State :=
  { stream bytes c with
    blk := b, out := List.replicate 15 0
    seq := { cursor := 0, unit := 15, frames := 15, status := .running } }

/-- The block of program P1. -/
def blockP1 : List Byte := [0xC1, 0x17, 0x8F, 0x00, 0x7F, 0x12, 0x34, 0xF0, 0x08]

/-- The configuration of a looping stream. -/
def loopCfg (loopStart maxFrames : Nat) : Cfg :=
  { Cfg.zero with loopEnabled := true, loopStart := loopStart, maxFrames := maxFrames }

/-! ### WellFormed: each check refuses an ill-formed term, and the boundary passes -/

theorem test_ill_formed_attack_rate :
    Instr.wellFormed 64 64 (.config { Cfg.zero with attackRate := 16 }) = false := by decide
theorem test_ill_formed_decay_rate :
    Instr.wellFormed 64 64 (.config { Cfg.zero with decayRate := 8 }) = false := by decide
theorem test_ill_formed_sustain_level :
    Instr.wellFormed 64 64 (.config { Cfg.zero with sustainLevel := 8 }) = false := by decide
theorem test_ill_formed_sustain_rate :
    Instr.wellFormed 64 64 (.config { Cfg.zero with sustainRate := 32 }) = false := by decide
theorem test_ill_formed_loop_start :
    Instr.wellFormed 16 64 (.config { Cfg.zero with loopStart := 65536 }) = false := by decide
theorem test_ill_formed_max_frames :
    Instr.wellFormed 64 16 (.config { Cfg.zero with maxFrames := 65536 }) = false := by decide
theorem test_ill_formed_decode_length : Instr.wellFormed 64 64 (.decode (List.replicate 8 0)) = false := by decide
theorem test_well_formed_boundary :
    Instr.wellFormed 16 16 (.config ⟨15, 7, 7, 31, 65535, true, true, 65535⟩) = true ∧
    Instr.wellFormed 16 16 (.decode blockP1) = true := by decide

/-! ### Decode and encode: words written bit by bit from spec/30_encoding.md R71, R72, R74 -/

/-- Header `SSSS FF L E` = 1100 00 0 1. -/
theorem test_decode_f0_word : decode (.block [0b11000001, 0x17, 0x8F, 0x00, 0x7F, 0x12, 0x34, 0xF0, 0x08]) =
    .ok (.brrF0 12 false true ⟨0x17, 0x8F, 0x00, 0x7F, 0x12, 0x34, 0xF0, 0x08⟩) := rfl
/-- Header 0101 01 1 0. -/
theorem test_decode_f1_word : decode (.block [0b01010110, 1, 2, 3, 4, 5, 6, 7, 8]) =
    .ok (.brrF1 5 true false ⟨1, 2, 3, 4, 5, 6, 7, 8⟩) := rfl
/-- Header 0111 10 0 0. -/
theorem test_decode_f2_word : decode (.block [0b01111000, 0x7F, 0x80, 0x01, 0xFE, 0, 0, 0, 0]) =
    .ok (.brrF2 7 false false ⟨0x7F, 0x80, 0x01, 0xFE, 0, 0, 0, 0⟩) := rfl
/-- Header 1111 11 1 1. -/
theorem test_decode_f3_word : decode (.block [0b11111111, 8, 7, 6, 5, 4, 3, 2, 1]) =
    .ok (.brrF3 15 true true ⟨8, 7, 6, 5, 4, 3, 2, 1⟩) := rfl
theorem test_encode_blocks :
    encode (.brrF0 12 false true (same 0x11)) = .block (0b11000001 :: List.replicate 8 0x11) ∧
    encode (.brrF1 5 true false (same 0x11)) = .block (0b01010110 :: List.replicate 8 0x11) ∧
    encode (.brrF2 7 false false (same 0x11)) = .block (0b01111000 :: List.replicate 8 0x11) ∧
    encode (.brrF3 15 true true (same 0x11)) = .block (0b11111111 :: List.replicate 8 0x11) := by decide
/-- Every command code of R72. -/
theorem test_decode_commands (c : Cfg) (d : List Byte) :
    decode (.command 0b000 c d) = .ok .reset ∧ decode (.command 0b001 c d) = .ok (.config c) ∧
    decode (.command 0b010 c d) = .ok .start ∧ decode (.command 0b011 c d) = .ok .step ∧
    decode (.command 0b100 c d) = .ok .keyOn ∧ decode (.command 0b101 c d) = .ok .keyOff ∧
    decode (.command 0b110 c d) = .ok .envTick ∧ decode (.command 0b111 c d) = .ok (.decode d) :=
  ⟨rfl, rfl, rfl, rfl, rfl, rfl, rfl, rfl⟩
theorem test_decode_length_refused :
    decode (.block (List.replicate 8 0)) = .error (.blockLength 8) ∧
    decode (.block (List.replicate 10 0)) = .error (.blockLength 10) := ⟨rfl, rfl⟩

/-- A table word of a command, and a table word of a block filled up with zeros. -/
theorem test_table_words :
    decodeTableWord 8 6 = some .envTick ∧ decodeTableWord 8 0x0C = some (.brrF3 0 false false (same 0)) ∧
    decodeTableWord 72 0x08070605040302014A = some (.brrF2 4 true false ⟨1, 2, 3, 4, 5, 6, 7, 8⟩) := by decide
set_option maxRecDepth 4096 in
/-- The step runs a placed word at once, from reset: KEY_OFF, and BRR.F3 with no bit set beyond its mask. -/
theorem test_placed_word_runs :
    after (fun t => t.env) (step (State.reset.withFetchWord 8 5)) = some ⟨.release, 0⟩ ∧
    after (fun t => (t.hist, t.host)) (step (State.reset.withFetchWord 8 0x0C)) = some (⟨0, 0⟩, []) := by decide

/-! ### One unit: tables 2.1 to 2.4 -/

theorem test_units : allUnits.map (unitValue ⟨0x17, 0x8F, 0x00, 0x7F, 0x12, 0x34, 0xF0, 0x08⟩) =
    [1, 7, -8, -1, 0, 0, 7, -1, 1, 2, 3, 4, -1, 0, 0, -8] := by decide
theorem test_shift_table :
    [(0 : BitVec 4), 1, 12, 13, 15].map (fun s => shiftStage params s (-7)) = [-4, -7, -14336, -2048, -2048] ∧
    [(0 : BitVec 4), 1, 12, 13, 15].map (fun s => shiftStage params s 7) = [3, 7, 14336, 0, 0] := by decide
theorem test_filter_f1_terms :
    [(0 : Int), 1, -1, 16, 8, 24, -8, -24, 1000, 32767, -32768].map (fun p => termF1 params ⟨p, 0⟩) =
      [0, 1, -1, 15, 8, 22, -8, -22, 938, 30719, -30720] := by decide
theorem test_filter_f2_terms :
    [(⟨1000, 500⟩ : Hist), ⟨16, 0⟩, ⟨-16, 0⟩, ⟨0, 16⟩, ⟨32767, -32768⟩, ⟨-32768, 32767⟩].map (termF2 params) =
      [1438, 30, -30, -15, 93182, -93183] := by decide
theorem test_filter_f3_terms :
    [(⟨1000, 500⟩ : Hist), ⟨40, 14⟩, ⟨-40, -14⟩, ⟨-36, 1⟩, ⟨32767, -32768⟩, ⟨-32768, 32767⟩].map (termF3 params) =
      [1391, 60, -60, -66, 85502, -85503] := by decide
theorem test_unit_clamps_both_ways :
    decodeUnit params 0xC8 (same 0x77) 0 ⟨32767, -32768⟩ = (65534, ⟨32767, 32767⟩) ∧
    decodeUnit params 0xCC (same 0x88) 0 ⟨-32768, 32767⟩ = (-65536, ⟨-32768, -32768⟩) := by decide

/-! ### Blocks: section 2.5 and program P1 -/

theorem test_f0_block :
    after (fun t => (t.hist, t.decOut)) (exec (.brrF0 12 false true ⟨0x17, 0x8F, 0x00, 0x7F, 0x12, 0x34, 0xF0, 0x08⟩)
      State.reset) = some (⟨-16384, 0⟩,
      [4096, 28672, -32768, -4096, 0, 0, 28672, -4096, 4096, 8192, 12288, 16384, -4096, 0, 0, -32768]) := by decide
theorem test_f0_high_shift :
    after (fun t => (t.hist, t.decOut.take 4)) (exec (.brrF0 13 false false ⟨0x8F, 0x70, 1, 0, 0, 0, 0, 0⟩)
      (withHist 5 6)) = some (⟨0, 0⟩, [-4096, -4096, 0, 0]) := by decide
set_option maxRecDepth 4096 in
theorem test_f1_block :
    after (fun t => (t.hist, t.decOut)) (exec (.brrF1 12 false false ⟨0x70, 0, 0, 0, 0, 0, 0, 0⟩) State.reset) =
      some (⟨5445, 5808⟩, [28672, 26880, 25200, 23624, 22148, 20764, 19466, 18250, 17110, 16040, 15038, 14098, 13216,
        12390, 11616, 10890]) := by decide
set_option maxRecDepth 4096 in
theorem test_f2_block :
    after (fun t => (t.hist, t.decOut)) (exec (.brrF2 7 false false ⟨0x7F, 0x80, 0x01, 0xFE, 0, 0, 0, 0⟩)
      (withHist 100 (-100))) =
      some (⟨-1243, -1180⟩, [1464, 2476, 2324, 2108, 1840, 1660, 1312, 688, 82, -488, -1008, -1464, -1846, -2146, -2360,
        -2486]) := by decide
set_option maxRecDepth 4096 in
theorem test_f3_block :
    after (fun t => (t.hist, t.decOut)) (exec (.brrF3 8 false false ⟨0x12, 0x34, 0x56, 0x78, 0x9A, 0xBC, 0xDE, 0xF0⟩)
      State.reset) =
      some (⟨-3875, -2528⟩, [256, 972, 2306, 4378, 7274, 11050, 15738, 17254, 16424, 13956, 10452, 6418, 2272, -1644,
        -5056, -7750]) := by decide
/-- The source's example S3, through DECODE. -/
theorem test_decode_uses_the_history :
    after (fun t => t.decOut.head?) (exec (.decode [0x08, 0, 0, 0, 0, 0, 0, 0, 0]) (withHist 1000 500)) =
      some (some 2876) := by decide
theorem test_decode_stops :
    faultOf (exec (.decode (List.replicate 8 0)) State.reset) = some (.malformedBlock 8) ∧
    refusalOf (exec (.decode blockP1) (stream blockP1 Cfg.zero)) = some .historyOwnedByStream := by decide

/-! ### The envelope: sections 2.6 and 2.7 -/

theorem test_exp_dec :
    [0, 1, 2, 255, 256, 257, 511, 512, 513, 1024, 2047].map expDec =
      [0, 0, 1, 254, 255, 256, 510, 511, 511, 1021, 2040] := by decide
theorem test_env_tick_attack_and_decay :
    after (fun t => t.env) (exec .envTick (withEnv .attack 1024 15 0 0)) = some ⟨.decay, 2047⟩ ∧
    after (fun t => t.env) (exec .envTick (withEnv .attack 1984 14 0 0)) = some ⟨.attack, 2016⟩ ∧
    after (fun t => t.env) (exec .envTick (withEnv .decay 2047 15 7 0)) = some ⟨.sustain, 2040⟩ := by decide
theorem test_env_tick_release_and_refusal :
    after (fun t => t.env) (exec .envTick (withEnv .release 1921 15 0 0)) = some ⟨.release, 1913⟩ ∧
    after (fun t => t.env) (exec .envTick (withEnv .sustain 2040 15 7 0)) = some ⟨.sustain, 2040⟩ ∧
    refusalOf (exec .envTick (stream blockP1 Cfg.zero)) = some .envelopeOwnedByStream := by decide
theorem test_key_on : after (fun t => t.env) (exec .keyOn (withEnv .release 37 0 0 0)) = some ⟨.attack, 0⟩ := by decide
theorem test_key_off :
    after (fun t => t.env) (exec .keyOff (withEnv .decay 1921 0 0 0)) = some ⟨.release, 1921⟩ := by decide
theorem test_gain_table :
    [((65534 : Int), 2047), (-65536, 2047), (40000, 2047), (30000, 1024), (-30000, 1024), (28672, 1024),
      (-32768, 1024), (32766, 1023), (1, 1), (-1, 1), (2047, 1), (-2047, 1), (-2046, 1), (65534, 0)].map
        (fun r => applyGain params { Cfg.zero with envEnabled := true } ⟨.decay, r.2⟩ r.1) =
      [32767, -32768, 32767, 15007, -15007, 14343, -16392, 16374, 0, 0, 1, -1, 0, 0] := by decide
theorem test_gain_disabled :
    [(40000 : Int), -65536, 1234].map (applyGain params Cfg.zero ⟨.attack, 0⟩) = [32767, -32768, 1234] := by decide

/-! ### The sequencer: section 2.8 and programs P1, P4b, P5 -/

theorem test_reset :
    after (fun t => (t.hist, t.env, t.seq.status, t.out, t.mem.len)) (exec .reset (stream blockP1 (loopCfg 3 9))) =
      some (⟨0, 0⟩, ⟨.attack, 0⟩, .idle, [], 9) := by decide
theorem test_config :
    after (fun t => (t.cfg, t.hist)) (exec (.config (loopCfg 0 48)) (withHist 5 6)) = some (loopCfg 0 48, ⟨5, 6⟩) ∧
    refusalOf (exec (.config { Cfg.zero with attackRate := 16 }) State.reset) = some .configOutOfRange := by decide
theorem test_config_while_running :
    refusalOf (exec (.config { Cfg.zero with attackRate := 16 }) (stream blockP1 Cfg.zero)) =
      some .configWhileRunning := by decide
/-- P4b: 8 bytes. -/
theorem test_start_exhausted :
    after (fun t => t.seq) (exec .start { State.reset with mem := Memory.ofBytes (0x40 :: List.replicate 7 0x11) }) =
      some { cursor := 0, unit := 0, frames := 0, status := .exhausted } := by decide
theorem test_start_capped :
    after (fun t => t.seq.status) (exec .start
      { State.reset with mem := Memory.ofBytes (0x01 :: List.replicate 8 0x11), cfg := loopCfg 0 0 }) =
      some .cap := by decide
/-- P1's first frame, and P5's, whose gain is that of the tick before it. -/
theorem test_step_first_frame :
    after (fun t => (t.out, t.seq.unit)) (exec .step (stream blockP1 Cfg.zero)) = some ([4096], 1) ∧
    after (fun t => t.out) (exec .step (stream [0xC7, 0x70, 0, 0, 0, 0, 0, 0, 0]
      { loopCfg 0 40 with envEnabled := true, attackRate := 15 })) = some [14343] := by decide
/-- A loop target with fewer than 9 bytes left, and the end flag without looping. -/
theorem test_step_block_end :
    after (fun t => t.seq) (exec .step (atUnit15 ⟨3, same 0x11⟩ (3 :: List.replicate 8 0x11) (loopCfg 5 100))) =
      some { cursor := 5, unit := 0, frames := 16, status := .exhausted } ∧
    after (fun t => t.seq) (exec .step (atUnit15 ⟨3, same 0x11⟩ (3 :: List.replicate 8 0x11) Cfg.zero)) =
      some { cursor := 0, unit := 0, frames := 16, status := .ended } := by decide

/-! ### Witnesses: what meets the hypotheses of each obligation, at the boundary of each clause

The roundings here are others than this hardware's, so that the obligations about every allowed rounding are met by
more than one. -/

/-- Round half up. -/
def halfUp (n d : Int) : Int := (2 * n + d) / (2 * d)

theorem halfUp_near (n d : Int) (hd : 0 < d) : 2 * (halfUp n d * d - n) ≤ d ∧ -d ≤ 2 * (halfUp n d * d - n) := by
  have h1 := Int.mul_ediv_add_emod (2 * n + d) (2 * d)
  have h2 := Int.emod_nonneg (2 * n + d) (show 2 * d ≠ 0 by omega)
  have h3 := Int.emod_lt_of_pos (2 * n + d) (show 0 < 2 * d by omega)
  unfold halfUp
  have h4 : 2 * ((2 * n + d) / (2 * d) * d) = 2 * d * ((2 * n + d) / (2 * d)) := by
    rw [Int.mul_comm ((2 * n + d) / (2 * d)) d, Int.mul_assoc]
  constructor <;> omega

theorem halfUp_exact (k d : Int) (hd : 0 < d) : halfUp (k * d) d = k := by
  unfold halfUp
  rw [show 2 * (k * d) + d = d + k * (2 * d) by ring, Int.add_mul_ediv_right _ _ (by omega : 2 * d ≠ 0),
    Int.ediv_eq_zero_of_lt (by omega) (by omega), Int.zero_add]

theorem halfUp_ofValue (n d k : Int) (hk : 0 < k) : halfUp (k * n) (k * d) = halfUp n d := by
  unfold halfUp
  rw [show 2 * (k * n) + k * d = k * (2 * n + d) by ring, show 2 * (k * d) = k * (2 * d) by ring,
    Int.mul_ediv_mul_of_pos _ _ hk]

theorem halfUp_allowed : FilterRoundAllowed halfUp :=
  ⟨halfUp_near, halfUp_exact, fun n d k _ hk => halfUp_ofValue n d k hk⟩

/-- Rounding down. -/
def floorRound (n d : Int) : Int := n / d

theorem floorRound_allowed : GainRoundAllowed floorRound where
  near n d hd := by
    have h1 := Int.mul_ediv_add_emod n d
    have h2 := Int.emod_nonneg n (show d ≠ 0 by omega)
    have h3 := Int.emod_lt_of_pos n hd
    have h4 := Int.mul_comm d (n / d)
    unfold floorRound
    omega
  exact k d hd := Int.mul_ediv_cancel k (by omega)
  ofValue n d k _ hk := Int.mul_ediv_mul_of_pos n d hk

/-- A reading of the source other than this hardware's. -/
def otherParams : Params :=
  { layout := headerFields, hiShift := hiShiftDefault, filterRound := halfUp, gainRound := floorRound }

theorem otherParams_allowed : otherParams.Allowed :=
  ⟨fun u v h => by simp [otherParams, hiShiftDefault, h], halfUp_allowed, floorRound_allowed⟩

theorem witness_EveryNineBytesDecodeWithoutLoss :
    blockP1.length = 9 ∧ (List.replicate 8 (0 : Byte)).length ≠ 9 ∧ (List.replicate 10 (0 : Byte)).length ≠ 9 := by
  decide
theorem witness_HeaderMasksSelectTheVariant :
    (0xF3 : Byte) &&& 0x0C = 0x00 ∧ (0x07 : Byte) &&& 0x0C = 0x04 ∧ (0xF8 : Byte) &&& 0x0C = 0x08 ∧
    (0xFF : Byte) &&& 0x0C = 0x0C := by decide
theorem witness_UnitsAreSignedHalvesHighFirst :
    unitValue (same 0x78) 14 = 7 ∧ (14 : Fin 16).val % 2 = 0 ∧ unitValue (same 0x78) 15 = -8 ∧
    (15 : Fin 16).val % 2 = 1 := by decide
theorem witness_NormalShiftRoundsDown :
    (0 : BitVec 4).toNat ≤ 12 ∧ (12 : BitVec 4).toNat ≤ 12 ∧ 1 ≤ (1 : BitVec 4).toNat ∧ (-8 : Int) ≤ -8 ∧
    (7 : Int) ≤ 7 := by decide
theorem witness_HighShiftKeepsOnlyTheSign :
    otherParams.Allowed ∧ 13 ≤ (13 : BitVec 4).toNat ∧ 13 ≤ (15 : BitVec 4).toNat ∧
    ((-1 : Int) < 0 ↔ (-8 : Int) < 0) ∧ ((0 : Int) < 0 ↔ (7 : Int) < 0) := ⟨otherParams_allowed, by decide⟩
theorem witness_DefaultRoundingsAreAllowed :
    ((0 : Int) < 2 ∧ 2 * (rhe 45 2 * 2 - 45) = -2) ∧ 2 * (rhe 15 2 * 2 - 15) = 2 ∧ (0 : Int) ≤ 3 ∧ (-3 : Int) ≤ 0 := by
  decide
theorem witness_FilterTermsAreNearTheFormulas : FilterRoundAllowed otherParams.filterRound := halfUp_allowed
theorem witness_UnitClampsAndShiftsTheHistory : InInt16 32767 ∧ InInt16 (-32768) := by decide
theorem witness_IntermediateValuesStayInRange :
    FilterRoundAllowed otherParams.filterRound ∧ otherParams.hiShift = hiShiftDefault ∧ InInt16 32767 ∧
    InInt16 (-32768) := ⟨halfUp_allowed, rfl, by decide, by decide⟩
theorem witness_FlagsDoNotAffectDecoding :
    (headerFields 0xC0).shift = (headerFields 0xC3).shift ∧ (headerFields 0xC0).filter = (headerFields 0xC3).filter ∧
    (0xC0 : Byte) &&& 0xFC = (0xC3 : Byte) &&& 0xFC := by decide
theorem witness_DecodeRunsTheBlockOnItsPort : State.reset.seq.status ≠ .running ∧ blockP1.length = 9 := by decide
theorem witness_DecodeStopsByName :
    (stream blockP1 Cfg.zero).seq.status = .running ∧ State.reset.seq.status ≠ .running ∧
    (List.replicate 8 (0 : Byte)).length ≠ 9 := by decide
theorem witness_AttackTickRises :
    (withEnv .attack 1023 15 0 0).seq.status ≠ .running ∧ (withEnv .attack 1023 15 0 0).cfg.envEnabled = true ∧
    (withEnv .attack 1023 15 0 0).env.phase = .attack ∧ 2047 ≤ 1023 + 1024 := by decide
theorem witness_DecayTickFallsToTheSustainLevel :
    (withEnv .decay 256 0 0 0).seq.status ≠ .running ∧ (withEnv .decay 256 0 0 0).cfg.envEnabled = true ∧
    (withEnv .decay 256 0 0 0).env.phase = .decay := by decide
theorem witness_SustainTickFallsOrHolds :
    (withEnv .sustain 0 0 0 1).seq.status ≠ .running ∧ (withEnv .sustain 0 0 0 1).cfg.envEnabled = true ∧
    (withEnv .sustain 0 0 0 1).env.phase = .sustain ∧ 0 < (withEnv .sustain 0 0 0 1).cfg.sustainRate ∧
    (withEnv .sustain 0 0 0 0).cfg.sustainRate = 0 := by decide
theorem witness_ReleaseReachesZeroInCeilingOfEighth :
    (withEnv .release 2047 0 0 0).seq.status ≠ .running ∧ (withEnv .release 2047 0 0 0).cfg.envEnabled = true ∧
    (withEnv .release 2047 0 0 0).env.phase = .release := by decide
theorem witness_EnvTickRefusedOrDisabled :
    (stream blockP1 Cfg.zero).seq.status = .running ∧ State.reset.seq.status ≠ .running ∧
    State.reset.cfg.envEnabled = false := by decide
theorem witness_AttackLastsTwoOrSixtyFourTicks :
    (withEnv .attack 0 15 0 0).seq.status ≠ .running ∧ (withEnv .attack 0 15 0 0).cfg.envEnabled = true ∧
    (withEnv .attack 0 15 0 0).env = ⟨.attack, 0⟩ ∧ (withEnv .attack 0 15 0 0).cfg.attackRate = 15 ∧
    (withEnv .attack 0 14 0 0).cfg.attackRate ≠ 15 := by decide
theorem witness_DecayDurationTable :
    (withEnv .decay 2047 0 7 0).seq.status ≠ .running ∧ (withEnv .decay 2047 0 7 0).cfg.envEnabled = true ∧
    (withEnv .decay 2047 0 7 0).env = ⟨.decay, 2047⟩ ∧ ((withEnv .decay 2047 0 7 0).cfg.sustainLevel, 1, 2040) =
      (7, 1, 2040) := by decide
theorem witness_TicksNeverGoBack : (⟨.attack, 2047⟩ : Env).level ≤ 2047 := by decide
theorem witness_GainScalesAndClamps :
    GainRoundAllowed otherParams.gainRound ∧ Cfg.zero.envEnabled = false ∧
    (withEnv .decay 2047 0 0 0).cfg.envEnabled = true ∧ (withEnv .decay 2047 0 0 0).env.level = 2047 ∧
    (withEnv .release 0 0 0 0).env.level = 0 := ⟨floorRound_allowed, by decide⟩
theorem witness_ConfigLatchesTheRecord :
    State.reset.seq.status ≠ .running ∧
    Cfg.wellFormed State.reset.addrW State.reset.frameW ⟨15, 7, 7, 31, 2 ^ 64 - 1, true, true, 2 ^ 64 - 1⟩ = true := by
  decide
theorem witness_ConfigRefusesByName :
    (stream blockP1 Cfg.zero).seq.status = .running ∧ State.reset.seq.status ≠ .running ∧ 15 < 16 ∧ 7 < 8 ∧ 31 < 32 ∧
    2 ^ State.reset.addrW ≤ 2 ^ 64 ∧ 2 ^ State.reset.frameW ≤ 2 ^ 64 := by decide
theorem witness_StepIsQuietOutsideAStream : State.reset.seq.status ≠ .running := by decide
/-- Exactly 9 bytes, so that the fetch is at its last possible offset. -/
theorem witness_StepEmitsOneFrame :
    (stream blockP1 Cfg.zero).seq.status = .running ∧ (stream blockP1 Cfg.zero).seq.unit = 0 ∧
    (stream blockP1 Cfg.zero).seq.cursor + 9 ≤ (stream blockP1 Cfg.zero).mem.len := by decide
theorem witness_StepAdvancesTheUnit :
    (atUnit15 ⟨1, same 0⟩ blockP1 Cfg.zero).seq.status = .running ∧
    (atUnit15 ⟨1, same 0⟩ blockP1 Cfg.zero).seq.unit.val = 15 ∧ (stream blockP1 Cfg.zero).seq.unit.val < 15 ∧
    (stream blockP1 Cfg.zero).seq.cursor + 9 ≤ (stream blockP1 Cfg.zero).mem.len := by decide
/-- The loop flag stands, looping is off. -/
theorem witness_EndFlagWithoutLoopEndsTheStream :
    (atUnit15 ⟨3, same 0⟩ blockP1 Cfg.zero).seq.status = .running ∧ (atUnit15 ⟨3, same 0⟩ blockP1 Cfg.zero).seq.unit = 15 ∧
    (params.layout 3).endFlag = true ∧ ¬ ((params.layout 3).loopFlag = true ∧ Cfg.zero.loopEnabled = true) := by decide
/-- 17 bytes leave 8 at the new cursor, 18 leave 9. -/
theorem witness_BlockWithoutEndFlagAdvances :
    (atUnit15 ⟨2, same 0⟩ (List.replicate 17 2) Cfg.zero).seq.status = .running ∧
    (atUnit15 ⟨2, same 0⟩ (List.replicate 17 2) Cfg.zero).seq.unit = 15 ∧ (params.layout 2).endFlag = false ∧
    (atUnit15 ⟨2, same 0⟩ (List.replicate 17 2) Cfg.zero).mem.len < 9 + 9 ∧
    9 + 9 ≤ (atUnit15 ⟨2, same 0⟩ (List.replicate 18 2) Cfg.zero).mem.len := by decide
/-- A target at 1 leaves 8 of the 9 bytes, one at 0 leaves 9. -/
theorem witness_LoopJumpKeepsHistoryAndEnvelope :
    (atUnit15 ⟨3, same 0⟩ blockP1 (loopCfg 0 100)).seq.status = .running ∧
    (atUnit15 ⟨3, same 0⟩ blockP1 (loopCfg 0 100)).seq.unit = 15 ∧ (params.layout 3).endFlag = true ∧
    (params.layout 3).loopFlag = true ∧ (loopCfg 0 100).loopEnabled = true ∧
    (atUnit15 ⟨3, same 0⟩ blockP1 (loopCfg 1 100)).mem.len < (loopCfg 1 100).loopStart + 9 ∧
    (loopCfg 0 100).loopStart + 9 ≤ (atUnit15 ⟨3, same 0⟩ blockP1 (loopCfg 0 100)).mem.len := by decide
/-- A state for each of the four statuses, where the cap alone would answer CAP in the first two too (R206): an end flag
without the loop flag at `max_frames`, a loop target with 8 bytes left at `max_frames`, the cap in the middle of a block,
and one frame below it. -/
theorem witness_FrameCapComesAfterBlockEnd :
    (stream blockP1 (loopCfg 0 1)).seq.status = .running ∧
    (stream blockP1 (loopCfg 0 1)).seq.cursor + 9 ≤ (stream blockP1 (loopCfg 0 1)).mem.len ∧
    after (fun t => t.seq.status) (exec .step (atUnit15 ⟨1, same 0⟩ blockP1 (loopCfg 0 16))) = some .ended ∧
    after (fun t => t.seq.status) (exec .step (atUnit15 ⟨3, same 0⟩ blockP1 (loopCfg 1 16))) = some .exhausted ∧
    after (fun t => t.seq.status) (exec .step (stream blockP1 (loopCfg 0 1))) = some .cap ∧
    after (fun t => t.seq.status) (exec .step (stream blockP1 (loopCfg 0 2))) = some .running := by decide
theorem witness_FetchOutsideTheMemoryFaults :
    (stream [] Cfg.zero).seq.status = .running ∧ (stream [] Cfg.zero).seq.unit = 0 ∧
    (stream [] Cfg.zero).mem.len < (stream [] Cfg.zero).seq.cursor + 9 := by decide
theorem witness_StepRunsTheDecodedCommand :
    (State.reset.withFetchWord 8 7).host = .command 7 Cfg.zero zeroBlockBytes :: [] ∧
    decode (.command 7 Cfg.zero zeroBlockBytes) = .ok (.decode zeroBlockBytes) := ⟨by decide, rfl⟩
theorem witness_PresentedMemoryReadsBack :
    ({ State.reset with host := [.present blockP1] } : State).host = .present blockP1 :: [] ∧
    State.reset.seq.status ≠ .running ∧ blockP1.length ≤ 2 ^ State.reset.addrW := by decide
theorem witness_HostMovesOutsideTheRulesAreRefused :
    State.reset.host = [] ∧ (stream blockP1 Cfg.zero).seq.status = .running ∧
    2 ^ ({ State.reset with addrW := 3 } : State).addrW < blockP1.length := by decide
theorem witness_PortsMatterOnlyToTheirCommand : (0b000 : BitVec 3) ≠ 0b001 ∧ (0b110 : BitVec 3) ≠ 0b111 := by decide
theorem witness_NoCommandWritesTheMemory : ∃ t, exec .step (stream blockP1 Cfg.zero) = .next t := ⟨_, rfl⟩
theorem witness_RegistersHaveTheirWriters :
    (∃ t, exec .keyOff (stream blockP1 Cfg.zero) = .next t) ∧ (∃ t, exec .step (stream blockP1 Cfg.zero) = .next t) ∧
    ∃ t, exec (.config Cfg.zero) State.reset = .next t := ⟨⟨_, rfl⟩, ⟨_, rfl⟩, ⟨_, rfl⟩⟩
theorem witness_OutputIsAppendOnly :
    (∃ t, exec .start (stream blockP1 Cfg.zero) = .next t) ∧ (∃ t, exec .step (stream blockP1 Cfg.zero) = .next t) ∧
    (∃ t, exec .step State.reset = .next t) ∧ ∃ t, exec .keyOn State.reset = .next t :=
  ⟨⟨_, rfl⟩, ⟨_, rfl⟩, ⟨_, rfl⟩, ⟨_, rfl⟩⟩
/-- A stream that has ended with CAP. -/
theorem witness_TerminalStatusStaysUntilStartOrReset :
    isTerminal ({ State.reset with seq := { cursor := 0, unit := 4, frames := 20, status := .cap } } : State).seq.status =
      true ∧ ∃ t, exec .step { State.reset with seq := { cursor := 0, unit := 4, frames := 20, status := .cap } } =
      .next t := ⟨by decide, ⟨_, rfl⟩⟩
theorem witness_RangesHoldUnderEveryReading :
    InInt16 32767 ∧ InInt16 (-32768) ∧ (∀ v ∈ (stream blockP1 Cfg.zero).out, InInt16 v) ∧
    ∃ t, streamStep otherParams (stream blockP1 Cfg.zero) = .next t := ⟨by decide, by decide, by decide, ⟨_, rfl⟩⟩
/-- Each phase and each status is that of some state. -/
theorem witness_ReadPortCodesAreFaithful :
    [Phase.attack, .decay, .sustain, .release].map (fun p => (readPort (withEnv p 0 0 0 0)).phase) = [0, 1, 2, 3] ∧
    [Status.idle, .running, .ended, .cap, .exhausted].map (fun st => (readPort (State.reset.setStatus st)).status) =
      [0, 1, 2, 3, 4] := by decide

/-- A state in the middle of a stream, whose host waits with this move. -/
def midStream (m : HostMove) : State := { atUnit15 ⟨3, same 0⟩ blockP1 (loopCfg 0 100) with host := [m] }

theorem midStream_safe (m : HostMove) : Safe (midStream m) :=
  ⟨⟨by show InInt16 0; decide, by show InInt16 0; decide, by show 0 ≤ 2047; decide,
    by show cfgInRange 64 64 (loopCfg 0 100) = true; decide, by show ∀ v ∈ List.replicate 15 (0 : Int), InInt16 v; decide,
    rfl, by show ∀ v ∈ State.reset.decOut, InInt17 v ∧ v % 2 = 0; decide⟩,
   ⟨by show (Memory.ofBytes blockP1).wf = true; decide, by show (Memory.ofBytes blockP1).len ≤ 2 ^ 64; decide⟩,
   fun _ => by show 0 + 9 ≤ (Memory.ofBytes blockP1).len; decide⟩

theorem witness_EveryStepKeepsSafety :
    Safe (midStream (.command 3 Cfg.zero [])) ∧ ∃ t, step (midStream (.command 3 Cfg.zero [])) = .next t :=
  ⟨midStream_safe _, ⟨_, rfl⟩⟩
theorem witness_EveryStepKeepsStreamCounters :
    StreamCounters (midStream (.command 3 Cfg.zero [])) ∧ ∃ t, step (midStream (.command 3 Cfg.zero [])) = .next t :=
  ⟨⟨by decide, by decide, by decide, by decide, by decide, by decide⟩, ⟨_, rfl⟩⟩
theorem witness_SafeStatesOnlyFaultOnMalformedBlocks :
    Safe { midStream (.command 7 Cfg.zero []) with seq := { cursor := 0, unit := 0, frames := 15, status := .ended } } ∧
    ∃ r, step { midStream (.command 7 Cfg.zero []) with
      seq := { cursor := 0, unit := 0, frames := 15, status := .ended } } = .fault r :=
  ⟨⟨⟨(midStream_safe (.command 7 Cfg.zero [])).registers.prev1, (midStream_safe (.command 7 Cfg.zero [])).registers.prev2,
      (midStream_safe (.command 7 Cfg.zero [])).registers.level, (midStream_safe (.command 7 Cfg.zero [])).registers.cfg,
      (midStream_safe (.command 7 Cfg.zero [])).registers.out,
      (midStream_safe (.command 7 Cfg.zero [])).registers.decOutLength,
      (midStream_safe (.command 7 Cfg.zero [])).registers.decOut⟩,
     ⟨(midStream_safe (.command 7 Cfg.zero [])).memory.wf, (midStream_safe (.command 7 Cfg.zero [])).memory.len⟩,
     fun h => by cases h⟩, ⟨_, rfl⟩⟩
theorem witness_NonLoopingStreamsEnd : (stream blockP1 Cfg.zero).cfg.loopEnabled = false := by decide
theorem witness_LoopingStreamsEnd : (stream blockP1 (loopCfg 0 40)).cfg.loopEnabled = true := by decide
/-- The cap falls exactly on the block's last frame. -/
theorem witness_SixteenStepsDecodeTheBlockAtOnce :
    (stream blockP1 (loopCfg 0 16)).seq.status = .running ∧ (stream blockP1 (loopCfg 0 16)).seq.unit = 0 ∧
    (stream blockP1 (loopCfg 0 16)).seq.cursor + 9 ≤ (stream blockP1 (loopCfg 0 16)).mem.len ∧
    (stream blockP1 (loopCfg 0 16)).seq.frames + 16 ≤ (stream blockP1 (loopCfg 0 16)).cfg.maxFrames := by decide

end Sys2Proof.Tests
end

/-! # Proofs: OUT is append-only (spec/10_state.md R34)

First what each command that can stop answers when it completes, then what becomes of OUT. -/

namespace Sys2Proof.Proofs

open Sys2Proof.Machine Sys2Proof.Laws

variable {s t : State}

/-! ### When a command that can stop completes, and with what -/

/-- CONFIG (R171, R205). -/
theorem execConfig_eq_next {c : Cfg} :
    execConfig c s = .next t ↔
      s.seq.status ≠ .running ∧ cfgInRange s.addrW s.frameW c = true ∧ t = { s with cfg := c } := by
  unfold execConfig
  by_cases hr : s.seq.status = .running
  · simp [hr]
  · by_cases hc : cfgInRange s.addrW s.frameW c = true
    · simp [hr, hc, eq_comm]
    · simp [hr, hc]

/-- ENV_TICK (R153). -/
theorem execEnvTick_eq_next :
    execEnvTick s = .next t ↔ s.seq.status ≠ .running ∧ t = tickEnvelope s := by
  unfold execEnvTick
  by_cases hr : s.seq.status = .running
  · simp [hr]
  · simp [hr, eq_comm]

/-- DECODE (R115, R201, R206). -/
theorem execDecode_eq_next {bytes : List Byte} :
    execDecode bytes s = .next t ↔
      s.seq.status ≠ .running ∧ ∃ b, Block.ofBytes bytes = some b ∧
        t = blockToDecOut params (params.layout b.hdr) b.data s := by
  unfold execDecode
  by_cases hr : s.seq.status = .running
  · simp [hr]
  · cases hb : Block.ofBytes bytes with
    | none => simp [hr]
    | some b => simp [hr, eq_comm]

/-! ### What becomes of OUT -/

/-- START empties OUT; its fetch check and cap check write the status alone (R172). -/
theorem execStart_out (h : execStart s = .next t) : t.out = [] := by
  cases h
  simp [frameCap_eq, fetchCheck_eq]

/-- RESET empties OUT (R220). -/
theorem execReset_out (h : execReset s = .next t) : t.out = [] := by
  cases h
  rfl

/-- The latch of a block leaves OUT as it is (R175). -/
theorem latchBlock_out (h : latchBlock s = some t) : t.out = s.out := by
  rcases latchBlock_eq h with ⟨-, b, -, rfl⟩ | ⟨-, rfl⟩ <;> rfl

/-- STEP of a RUNNING stream appends one int16 to OUT, under every parameter (R176). -/
theorem streamStep_running_out {P : Params} (hr : s.seq.status = .running) (h : streamStep P s = .next t) :
    ∃ o, InInt16 o ∧ t.out = s.out ++ [o] := by
  rcases streamStep_cases P s with ⟨hq, -⟩ | ⟨-, -, hf⟩ | ⟨-, s₁, hl, hn⟩
  · exact absurd hr hq
  · cases hf.symm.trans h
  · cases hn.symm.trans h
    exact ⟨_, applyGain_inInt16 _ _ _ _, by rw [← latchBlock_out hl]; rfl⟩

/-- STEP with no stream RUNNING leaves OUT as it is (R182). -/
theorem streamStep_quiet_out {P : Params} (hr : s.seq.status ≠ .running) (h : streamStep P s = .next t) :
    t.out = s.out := by
  cases (streamStep_quiet P hr).symm.trans h
  rfl

/-- A command other than START, RESET and STEP leaves OUT as it is. -/
theorem exec_other_out {i : Instr} (h : exec i s = .next t) (hstart : i ≠ .start) (hreset : i ≠ .reset)
    (hstep : i ≠ .step) : t.out = s.out := by
  cases i with
  | brrF0 => cases h; rfl
  | brrF1 => cases h; rfl
  | brrF2 => cases h; rfl
  | brrF3 => cases h; rfl
  | reset => exact absurd rfl hreset
  | config c => obtain ⟨-, -, rfl⟩ := execConfig_eq_next.mp h; rfl
  | start => exact absurd rfl hstart
  | step => exact absurd rfl hstep
  | keyOn => cases h; rfl
  | keyOff => cases h; rfl
  | envTick => obtain ⟨-, rfl⟩ := execEnvTick_eq_next.mp h; rfl
  | decode bytes => obtain ⟨-, b, -, rfl⟩ := execDecode_eq_next.mp h; rfl

/-- Settles O49: each of START, RESET, STEP and the rest by its lemma about OUT. -/
theorem outputIsAppendOnly : Obligations.OutputIsAppendOnly := by
  unfold Obligations.OutputIsAppendOnly
  refine ⟨rfl, fun i s t h => ⟨?emptied, ?appended, ?quiet, exec_other_out h⟩⟩
  case emptied =>
    rintro (rfl | rfl)
    · exact execStart_out h
    · exact execReset_out h
  case appended =>
    rintro rfl hr
    exact streamStep_running_out hr h
  case quiet =>
    rintro rfl hr
    exact streamStep_quiet_out hr h

end Sys2Proof.Proofs

/-! # Proofs: the decode of a unit and of a block (spec/40_brr_decode.md)

A block is followed through the histories its units meet: each is the history the units before it leave, and the next
unit's history and emission follow from it by `DecodeUnit`. -/

namespace Sys2Proof.Proofs

open Sys2Proof.Machine Sys2Proof.Laws

/-! ### The raw unit and its value -/

section
variable (d : BlockData)

/-- `dataByte d k` is entry `k` of the 8 data bytes in order (R71). -/
theorem dataBytes_getElem? {k : Nat} (hk : k < 8) :
    [d.d0, d.d1, d.d2, d.d3, d.d4, d.d5, d.d6, d.d7][k]? = some (dataByte d k) := by
  match k with
  | 0 | 1 | 2 | 3 | 4 | 5 | 6 | 7 => rfl
  | _ + 8 => omega

/-- An even unit is the high half of its byte (R101). -/
theorem rawUnit_toNat_of_even {i : Fin 16} (hi : i.val % 2 = 0) :
    (rawUnit d i).toNat = (dataByte d (i.val / 2)).toNat / 16 := by
  have hb := (dataByte d (i.val / 2)).isLt
  simp only [rawUnit, hi, if_true, BitVec.extractLsb'_toNat, Nat.shiftRight_eq_div_pow]
  omega

/-- An odd unit is the low half of its byte (R101). -/
theorem rawUnit_toNat_of_odd {i : Fin 16} (hi : i.val % 2 = 1) :
    (rawUnit d i).toNat = (dataByte d (i.val / 2)).toNat % 16 := by
  simp [rawUnit, hi, BitVec.extractLsb'_toNat]

end

/-- A raw unit of 0..7 is its own value (R10). -/
theorem sext4_of_le {n : BitVec 4} (hn : n.toNat ≤ 7) : sext4 n = (n.toNat : Int) := if_pos hn

/-- A raw unit of 8..15 stands for the number 16 below it (R10). -/
theorem sext4_of_ge {n : BitVec 4} (hn : 8 ≤ n.toNat) : sext4 n = (n.toNat : Int) - 16 :=
  if_neg (Nat.not_le.mpr hn)

/-! ### The units of a block -/

/-- The units before unit `i` with unit `i` itself are the units before the next one. -/
theorem allUnits_take_succ (i : Fin 16) : allUnits.take (i.val + 1) = allUnits.take i.val ++ [i] := by
  revert i; decide

/-- The history unit `k` of a block meets: the one its first `k` units leave. At 16 it is the history after the block. -/
def historyAtUnit (P : Params) (f : Header) (d : BlockData) (h : Hist) (k : Nat) : Hist :=
  (decodeUnits P f d (allUnits.take k) h).2

section
variable (P : Params) (f : Header) (d : BlockData) (h : Hist)

/-- One unit more adds its emission and takes the history it meets to the next one. -/
theorem decodeUnits_take_succ (i : Fin 16) :
    decodeUnits P f d (allUnits.take (i.val + 1)) h =
      ((decodeUnits P f d (allUnits.take i.val) h).1 ++ [(decodeUnitFields P f d i (historyAtUnit P f d h i.val)).1],
        (decodeUnitFields P f d i (historyAtUnit P f d h i.val)).2) := by
  rw [allUnits_take_succ, decodeUnits_append]
  rfl

/-- Unit `i` takes the history it meets to the one the next unit meets. -/
theorem historyAtUnit_succ (i : Fin 16) :
    historyAtUnit P f d h (i.val + 1) = (decodeUnitFields P f d i (historyAtUnit P f d h i.val)).2 :=
  congrArg Prod.snd (decodeUnits_take_succ P f d h i)

/-- `DecodeUnit` of unit `i` on the history it meets, in terms of the next history alone. -/
theorem decodeUnitFields_historyAtUnit (i : Fin 16) :
    decodeUnitFields P f d i (historyAtUnit P f d h i.val) =
      (2 * (historyAtUnit P f d h (i.val + 1)).prev1, historyAtUnit P f d h (i.val + 1)) := by
  rw [historyAtUnit_succ, ← decodeUnitFields_emission]

/-- The first `k` units emit, in order, twice the newest sample of the history each leaves (R108, R109). -/
theorem decodeUnits_take_emissions {k : Nat} (hk : k ≤ 16) :
    (decodeUnits P f d (allUnits.take k) h).1 =
      (List.range k).map fun j => 2 * (historyAtUnit P f d h (j + 1)).prev1 := by
  induction k with
  | zero => rfl
  | succ k ih =>
    rw [decodeUnits_take_succ P f d h ⟨k, hk⟩, decodeUnitFields_historyAtUnit, ih (by omega), List.range_succ,
      List.map_append]
    rfl

/-- After a unit `prev2` is the newest sample of the unit before (R107). -/
theorem historyAtUnit_succ_prev2 (i : Fin 16) :
    (historyAtUnit P f d h (i.val + 1)).prev2 = (historyAtUnit P f d h i.val).prev1 := by
  rw [historyAtUnit_succ, decodeUnitFields_hist]

end

/-! ### The obligations -/

/-- Settles O12: `H` is the history each unit meets, `c i` the newest sample of the history unit `i` leaves, and the
emission is twice that sample. -/
theorem blockThreadsTheHistoryThroughItsUnits : Obligations.BlockThreadsTheHistoryThroughItsUnits := by
  unfold Obligations.BlockThreadsTheHistoryThroughItsUnits
  intro P hdr d h
  refine ⟨historyAtUnit P (P.layout hdr) d h, fun k => 2 * (historyAtUnit P (P.layout hdr) d h (k + 1)).prev1,
    fun k => (historyAtUnit P (P.layout hdr) d h (k + 1)).prev1, rfl,
    fun i => ⟨?unit, rfl⟩, ?emissions, rfl, ?lastTwo⟩
  case unit => exact decodeUnitFields_historyAtUnit P (P.layout hdr) d h i
  case emissions => exact decodeUnits_take_emissions P (P.layout hdr) d h (Nat.le_refl 16)
  case lastTwo => exact congrArg (Hist.mk _) (historyAtUnit_succ_prev2 P (P.layout hdr) d h 15)

/-- Settles O5: the byte is data byte `i div 2` and the number its half that the raw unit takes. -/
theorem unitsAreSignedHalvesHighFirst : Obligations.UnitsAreSignedHalvesHighFirst := by
  unfold Obligations.UnitsAreSignedHalvesHighFirst
  intro d i
  exact ⟨dataByte d (i.val / 2), (rawUnit d i).toNat, dataBytes_getElem? d (by omega),
    rawUnit_toNat_of_even d, rawUnit_toNat_of_odd d, sext4_of_le, sext4_of_ge⟩

/-- Settles O10, by the history after a unit and the clamp's range. -/
theorem unitClampsAndShiftsTheHistory : Obligations.UnitClampsAndShiftsTheHistory := by
  unfold Obligations.UnitClampsAndShiftsTheHistory
  intro P f d i h
  rw [decodeUnitFields_hist]
  exact ⟨rfl, rfl, clamp16_inInt16 _, id⟩

end Sys2Proof.Proofs

/-! # Proofs: the end of a block (spec/42_stream.md R179, R180)

The STEP of unit 15 latches no block, so it completes in every RUNNING state; the cursor and the status it leaves follow
from the kind of block end. -/

namespace Sys2Proof.Proofs

open Sys2Proof.Machine Sys2Proof.Laws

variable {s : State} {P : Params}

/-! ### The STEP of the 16th frame -/

/-- In the middle of a block STEP uses the block latched before, wherever the cursor is (R175). -/
theorem latchBlock_of_unit_ne_zero (hu : s.seq.unit ≠ 0) : latchBlock s = some s := if_neg hu

/-- The STEP of unit 15 emits the frame and hands on to the next block (R176, R177). -/
theorem exec_step_unit15 (hr : s.seq.status = .running) (hu : s.seq.unit = 15) :
    exec .step s = .next
      { emitFrame params s with
        seq := ⟨nextCursor params (emitFrame params s), s.seq.unit + 1, s.seq.frames + 1,
                nextStatus params (emitFrame params s)⟩ } :=
  streamStep_running params hr (latchBlock_of_unit_ne_zero (by simp [hu]))

/-! ### The cursor and the status by the kind of block end -/

/-- Block-end control moves on to the next block exactly without an end flag (R180). -/
theorem blockEndKind_eq_advance (h : Header) (loopEnabled : Bool) :
    blockEndKind h loopEnabled = .advance ↔ h.endFlag = false := by
  unfold blockEndKind
  cases h.endFlag with
  | false => simp
  | true => cases h.loopFlag <;> cases loopEnabled <;> simp

theorem nextCursor_finish (hk : blockEndKind (P.layout s.blk.hdr) s.cfg.loopEnabled = .finish) :
    nextCursor P s = s.seq.cursor := by
  simp [nextCursor, hk]

theorem nextStatus_finish (hu : s.seq.unit = 15)
    (hk : blockEndKind (P.layout s.blk.hdr) s.cfg.loopEnabled = .finish) : nextStatus P s = .ended :=
  if_pos ⟨hu, hk⟩

theorem nextCursor_advance (hu : s.seq.unit = 15)
    (hk : blockEndKind (P.layout s.blk.hdr) s.cfg.loopEnabled = .advance) :
    nextCursor P s = s.seq.cursor + 9 := by
  simp [nextCursor, hu, hk]

/-- Whatever the kind of block end but the end of the stream, the fetch check fails below 9 bytes (R173). -/
theorem nextStatus_exhausted (hu : s.seq.unit = 15)
    (hk : blockEndKind (P.layout s.blk.hdr) s.cfg.loopEnabled ≠ .finish) (hm : s.mem.len < nextCursor P s + 9) :
    nextStatus P s = .exhausted := by
  simp [nextStatus, hu, hk, hm]

/-- Past the fetch check the stream goes on, unless the frame cap comes after (R181). -/
theorem nextStatus_running_or_cap (hk : blockEndKind (P.layout s.blk.hdr) s.cfg.loopEnabled ≠ .finish)
    (hm : nextCursor P s + 9 ≤ s.mem.len) : nextStatus P s = .running ∨ nextStatus P s = .cap := by
  rw [nextStatus, if_neg fun h => hk h.2, if_neg fun h => Nat.not_lt.mpr hm h.2]
  by_cases hcap : s.cfg.loopEnabled = true ∧ s.cfg.maxFrames ≤ s.seq.frames
  · exact .inr (if_pos hcap)
  · exact .inl (if_neg hcap)

/-! ### The obligations -/

/-- Settles O36: the kind of block end is `finish`, which leaves the cursor. -/
theorem endFlagWithoutLoopEndsTheStream : Obligations.EndFlagWithoutLoopEndsTheStream := by
  unfold Obligations.EndFlagWithoutLoopEndsTheStream
  intro s hr hu hend hloop
  have hk := (blockEndKind_eq_finish (params.layout s.blk.hdr) s.cfg.loopEnabled).mpr ⟨hend, hloop⟩
  exact ⟨_, exec_step_unit15 hr hu, nextStatus_finish (s := emitFrame params s) hu hk,
    nextCursor_finish (s := emitFrame params s) hk⟩

/-- Settles O37: the kind of block end is `advance`, and the fetch check at the new cursor decides. -/
theorem blockWithoutEndFlagAdvances : Obligations.BlockWithoutEndFlagAdvances := by
  unfold Obligations.BlockWithoutEndFlagAdvances
  intro s hr hu hend
  have hk := (blockEndKind_eq_advance (params.layout s.blk.hdr) s.cfg.loopEnabled).mpr hend
  have hne : blockEndKind (params.layout s.blk.hdr) s.cfg.loopEnabled ≠ .finish := by simp [hk]
  exact ⟨_, exec_step_unit15 hr hu, nextCursor_advance (s := emitFrame params s) hu hk,
    nextStatus_exhausted (s := emitFrame params s) hu hne, nextStatus_running_or_cap (s := emitFrame params s) hne⟩

end Sys2Proof.Proofs

/-! # Proofs: the encodings (spec/30_encoding.md)

A block is its header and its data, so each statement about blocks is proved once, of the block instruction of a header
`brrInstr`, and holds of BRR.F0 to BRR.F3 by the case of the header's filter. -/

namespace Sys2Proof.Proofs

open Sys2Proof.Machine Sys2Proof.Laws

/-! ### The header byte (R74, R77) -/

/-- Every header has a byte of its own: none of its fields loses a bit. -/
theorem headerFields_headerByte (h : Header) : headerFields (headerByte h) = h := by
  obtain ⟨shift, filter, loopFlag, endFlag⟩ := h
  revert shift loopFlag endFlag
  cases filter <;> decide

/-- Every byte is the byte of its header fields (R78). -/
theorem headerByte_headerFields (b : Byte) : headerByte (headerFields b) = b := by
  revert b; decide

/-- The filter field stands under the mask 0x0C (R77). -/
theorem headerFields_filter_iff (b : Byte) (f : Filter) :
    (headerFields b).filter = f ↔ b &&& 0x0C = headerByte ⟨0, f, false, false⟩ := by
  revert b; cases f <;> decide

/-- The bits outside the mask 0xFC are the two flags. -/
theorem headerFields_and_FC (b : Byte) :
    headerFields (b &&& 0xFC) = { headerFields b with loopFlag := false, endFlag := false } := by
  revert b; decide

/-! ### The bytes of a block (R71) -/

theorem ofBytes_toBytes (b : Block) : Block.ofBytes b.toBytes = some b := rfl

/-- Nine bytes are the bytes of one block. -/
theorem exists_toBytes_of_length {bytes : List Byte} (h : bytes.length = 9) : ∃ b : Block, bytes = b.toBytes := by
  match bytes, h with
  | [h, b0, b1, b2, b3, b4, b5, b6, b7], _ => exact ⟨⟨h, ⟨b0, b1, b2, b3, b4, b5, b6, b7⟩⟩, rfl⟩

/-- Any other number of bytes is no block. -/
theorem ofBytes_of_length_ne {bytes : List Byte} (h : bytes.length ≠ 9) : Block.ofBytes bytes = none := by
  unfold Block.ofBytes
  split
  · exact absurd rfl h
  · rfl

/-! ### The block instruction of a header -/

/-- The block instruction with these header fields and data. -/
def brrInstr (h : Header) (d : BlockData) : Instr :=
  match h.filter with
  | .f0 => .brrF0 h.shift h.loopFlag h.endFlag d
  | .f1 => .brrF1 h.shift h.loopFlag h.endFlag d
  | .f2 => .brrF2 h.shift h.loopFlag h.endFlag d
  | .f3 => .brrF3 h.shift h.loopFlag h.endFlag d

theorem decode_toBytes (b : Block) : decode (.block b.toBytes) = .ok (brrInstr (headerFields b.hdr) b.data) := rfl

theorem encode_brrInstr (h : Header) (d : BlockData) :
    encode (brrInstr h d) = .block (Block.toBytes ⟨headerByte h, d⟩) := by
  obtain ⟨shift, filter, loopFlag, endFlag⟩ := h
  cases filter <;> rfl

theorem exec_brrInstr (h : Header) (d : BlockData) (s : State) :
    exec (brrInstr h d) s = .next (blockToDecOut params h d s) := by
  obtain ⟨shift, filter, loopFlag, endFlag⟩ := h
  cases filter <;> rfl

/-- The decoder gives back the fields an encoded block was written with. -/
theorem decode_encodeBlock (h : Header) (d : BlockData) : decode (encodeBlock h d) = .ok (brrInstr h d) := by
  rw [encodeBlock, decode_toBytes, headerFields_headerByte]

/-! ### The obligations -/

/-- Settles O2: a block by `decode_encodeBlock`, a command by its code. -/
theorem decodingAnEncodingGivesItBack : Obligations.DecodingAnEncodingGivesItBack := by
  unfold Obligations.DecodingAnEncodingGivesItBack
  intro i
  cases i with
  | brrF0 shift l e data => exact decode_encodeBlock ⟨shift, .f0, l, e⟩ data
  | brrF1 shift l e data => exact decode_encodeBlock ⟨shift, .f1, l, e⟩ data
  | brrF2 shift l e data => exact decode_encodeBlock ⟨shift, .f2, l, e⟩ data
  | brrF3 shift l e data => exact decode_encodeBlock ⟨shift, .f3, l, e⟩ data
  | reset | config | start | step | keyOn | keyOff | envTick | decode => rfl

/-- Settles O3: nine bytes are the bytes of a block, and its header byte is that of its fields. -/
theorem everyNineBytesDecodeWithoutLoss : Obligations.EveryNineBytesDecodeWithoutLoss := by
  unfold Obligations.EveryNineBytesDecodeWithoutLoss
  intro bytes
  refine ⟨fun h => ?nine, fun h => ?other⟩
  case nine =>
    obtain ⟨b, rfl⟩ := exists_toBytes_of_length h
    exact ⟨_, decode_toBytes b, by rw [encode_brrInstr, headerByte_headerFields]⟩
  case other => simp [decode, ofBytes_of_length_ne h]

/-- Settles O4: the four fields are those `headerFields` reads, and the mask selects the filter. -/
theorem headerMasksSelectTheVariant : Obligations.HeaderMasksSelectTheVariant := by
  unfold Obligations.HeaderMasksSelectTheVariant
  intro b
  have hdec (f : Filter) (hm : b.hdr &&& 0x0C = headerByte ⟨0, f, false, false⟩) :
      decode (.block b.toBytes) = .ok (brrInstr { headerFields b.hdr with filter := f } b.data) := by
    rw [decode_toBytes, ← (headerFields_filter_iff b.hdr f).mpr hm]
  refine ⟨(headerFields b.hdr).shift, (headerFields b.hdr).loopFlag, (headerFields b.hdr).endFlag, ?_, ?_, ?_,
    hdec .f0, hdec .f1, hdec .f2, hdec .f3⟩
  · have := b.hdr.isLt
    simp only [headerFields, BitVec.extractLsb'_toNat, Nat.shiftRight_eq_div_pow]
    omega
  · simp [headerFields, BitVec.getLsbD, Nat.testBit_succ, Nat.testBit_zero]
  · simp [headerFields, BitVec.getLsbD, Nat.testBit_zero]

/-- Settles O1: each word evaluates to its instruction. -/
theorem specifiedWordsDecode : Obligations.SpecifiedWordsDecode := by
  unfold Obligations.SpecifiedWordsDecode
  exact ⟨rfl, rfl, rfl, rfl, fun _ _ => ⟨rfl, rfl, rfl, rfl, rfl, rfl, rfl, rfl⟩⟩

end Sys2Proof.Proofs

/-! # Proofs: STEP, START and the stream they run (spec/42_stream.md)

A STEP of a RUNNING stream is `frameOf` of the block it decodes: the block latched at the cursor at unit 0, else the one
latched before. What a frame does to each register is said once and used by every statement about STEP. -/

namespace Sys2Proof.Proofs

open Sys2Proof.Machine Sys2Proof.Laws

/-! ### One frame -/

/-- The block the next frame of a stream decodes is `b` (R175). -/
def Latches (s : State) (b : Block) : Prop :=
  (s.seq.unit = 0 → s.mem.block s.seq.cursor = some b) ∧ (s.seq.unit ≠ 0 → b = s.blk)

/-- A RUNNING stream after one frame of block `b` (R174). -/
def frameOf (P : Params) (b : Block) (s : State) : State :=
  { s with
    blk := b
    hist := (decodeUnit P b.hdr b.data s.seq.unit s.hist).2
    env := envTick s.cfg s.env
    out := s.out ++ [applyGain P s.cfg (envTick s.cfg s.env) (decodeUnit P b.hdr b.data s.seq.unit s.hist).1]
    seq := ⟨nextCursor P { s with blk := b }, s.seq.unit + 1, s.seq.frames + 1,
            nextStatus P (emitFrame P { s with blk := b })⟩ }

section
variable {s : State}

/-- The latch is defined exactly where the fetch is. -/
theorem exists_latches (h : s.seq.unit = 0 → s.seq.cursor + 9 ≤ s.mem.len) : ∃ b, Latches s b := by
  by_cases hu : s.seq.unit = 0
  · obtain ⟨b, hb, -⟩ := block_of_le (h hu)
    exact ⟨b, fun _ => hb, fun hne => absurd hu hne⟩
  · exact ⟨s.blk, fun h0 => absurd h0 hu, fun _ => rfl⟩

theorem latchBlock_eq_some {t : State} : latchBlock s = some t ↔ ∃ b, Latches s b ∧ t = { s with blk := b } := by
  constructor
  · intro h
    rcases latchBlock_eq h with ⟨hu, b, hb, rfl⟩ | ⟨hu, rfl⟩
    · exact ⟨b, ⟨fun _ => hb, fun hne => absurd hu hne⟩, rfl⟩
    · exact ⟨t.blk, ⟨fun h0 => absurd h0 hu, fun _ => rfl⟩, rfl⟩
  · rintro ⟨b, ⟨h0, hne⟩, rfl⟩
    by_cases hu : s.seq.unit = 0
    · simp [latchBlock, hu, h0 hu]
    · rw [hne hu, latchBlock_of_unit_ne_zero hu]

theorem latchBlock_eq_none : latchBlock s = none ↔ s.seq.unit = 0 ∧ s.mem.len < s.seq.cursor + 9 := by
  by_cases hu : s.seq.unit = 0
  · simp [latchBlock, Memory.block, hu]
  · simp [latchBlock, hu]

/-- Block-end control reads nothing the frame itself writes. -/
theorem nextCursor_emitFrame (P : Params) (s : State) : nextCursor P (emitFrame P s) = nextCursor P s := rfl

/-- STEP of a RUNNING stream, where the fetch is defined. -/
theorem streamStep_latched (P : Params) {b : Block} (hr : s.seq.status = .running) (hb : Latches s b) :
    streamStep P s = .next (frameOf P b s) := by
  rw [streamStep_running P hr (latchBlock_eq_some.mpr ⟨b, hb, rfl⟩), nextCursor_emitFrame]
  rfl

/-- What STEP completes with. -/
theorem streamStep_eq_next {P : Params} {t : State} (h : streamStep P s = .next t) :
    (s.seq.status ≠ .running ∧ t = s) ∨
      (s.seq.status = .running ∧ ∃ b, Latches s b ∧ t = frameOf P b s) := by
  rcases streamStep_cases P s with ⟨hq, hs⟩ | ⟨-, -, hs⟩ | ⟨hr, s₁, hl, -⟩
  · cases hs.symm.trans h
    exact .inl ⟨hq, rfl⟩
  · cases hs.symm.trans h
  · obtain ⟨b, hb, rfl⟩ := latchBlock_eq_some.mp hl
    cases (streamStep_latched P hr hb).symm.trans h
    exact .inr ⟨hr, b, hb, rfl⟩

end

/-! ### The cursor and the status a frame leaves -/

section
variable {P : Params} {b : Block} {s : State}

theorem frameOf_cursor : (frameOf P b s).seq.cursor = nextCursor P { s with blk := b } := rfl
theorem frameOf_status : (frameOf P b s).seq.status = nextStatus P (emitFrame P { s with blk := b }) := rfl

/-- Before the last unit of a block the cursor stays. -/
theorem frameOf_cursor_of_unit_ne (hu : s.seq.unit ≠ 15) : (frameOf P b s).seq.cursor = s.seq.cursor := if_neg hu

/-- Everything the status can be after a frame, under its condition (R181, R206). -/
theorem frameOf_status_eq :
    (frameOf P b s).seq.status =
      if s.seq.unit = 15 ∧ blockEndKind (P.layout b.hdr) s.cfg.loopEnabled = .finish then .ended
      else if s.seq.unit = 15 ∧ s.mem.len < (frameOf P b s).seq.cursor + 9 then .exhausted
      else if s.cfg.loopEnabled = true ∧ s.cfg.maxFrames ≤ s.seq.frames + 1 then .cap
      else .running := rfl

/-- What a frame that leaves the stream RUNNING has passed. -/
theorem of_frameOf_running (h : (frameOf P b s).seq.status = .running) :
    ¬ (s.seq.unit = 15 ∧ blockEndKind (P.layout b.hdr) s.cfg.loopEnabled = .finish) ∧
    (s.seq.unit = 15 → (frameOf P b s).seq.cursor + 9 ≤ s.mem.len) ∧
    (s.cfg.loopEnabled = true → s.seq.frames + 1 < s.cfg.maxFrames) := by
  rw [frameOf_status_eq] at h
  split at h
  · cases h
  · split at h
    · cases h
    · split at h
      · cases h
      · rename_i h1 h2 h3
        exact ⟨h1, by omega, fun hl => Nat.lt_of_not_le fun hm => h3 ⟨hl, hm⟩⟩

/-- END and EXHAUSTED come after the 16th frame of a block alone. -/
theorem unit_of_frameOf_ended (h : (frameOf P b s).seq.status = .ended ∨ (frameOf P b s).seq.status = .exhausted) :
    s.seq.unit = 15 := by
  rw [frameOf_status_eq] at h
  split at h
  · next hu => exact hu.1
  · split at h
    · next hu => exact hu.1
    · split at h <;> simp at h

/-- CAP comes to a looping-enabled stream with `max_frames` frames alone. -/
theorem of_frameOf_cap (h : (frameOf P b s).seq.status = .cap) :
    s.cfg.loopEnabled = true ∧ s.cfg.maxFrames ≤ s.seq.frames + 1 := by
  rw [frameOf_status_eq] at h
  split at h
  · cases h
  · split at h
    · cases h
    · split at h
      · next hc => exact hc
      · cases h

/-- A frame leaves a stream that has been started. -/
theorem frameOf_status_ne_idle : (frameOf P b s).seq.status ≠ .idle := by
  rw [frameOf_status_eq]
  split
  · simp
  · split
    · simp
    · split <;> simp

/-- Without looping a block that does not end the stream moves the cursor to the next block. -/
theorem frameOf_cursor_straight (hu : s.seq.unit = 15) (hl : s.cfg.loopEnabled = false)
    (hk : blockEndKind (P.layout b.hdr) s.cfg.loopEnabled ≠ .finish) :
    (frameOf P b s).seq.cursor = s.seq.cursor + 9 := by
  have hadv : blockEndKind (P.layout b.hdr) s.cfg.loopEnabled = .advance := by
    rw [ne_eq, blockEndKind_eq_finish] at hk
    rw [blockEndKind_eq_advance]
    simpa [hl] using hk
  exact nextCursor_advance (s := { s with blk := b }) hu hadv

end

/-! ### START -/

/-- The status of a stream right after START (R172, R206). -/
def startStatus (s : State) : Status :=
  if s.mem.len < 9 then .exhausted else if s.cfg.loopEnabled = true ∧ s.cfg.maxFrames = 0 then .cap else .running

/-- START ends the fresh stream where its checks fail, and does no more. -/
theorem exec_start (s : State) : exec .start s = .next ((freshStream s).setStatus (startStatus s)) := by
  show Host.Outcome.next (frameCap (fetchCheck (freshStream s))) = _
  rw [frameCap_eq, fetchCheck_eq]
  by_cases hm : s.mem.len < 9
  · simp [startStatus, hm]; rfl
  · simp [startStatus, hm]; rfl

theorem of_startStatus_running {s : State} (h : startStatus s = .running) :
    9 ≤ s.mem.len ∧ (s.cfg.loopEnabled = true → 0 < s.cfg.maxFrames) := by
  unfold startStatus at h
  split at h
  · cases h
  · split at h
    · cases h
    · rename_i h1 h2
      exact ⟨Nat.le_of_not_lt h1, fun hl => Nat.pos_of_ne_zero fun h0 => h2 ⟨hl, h0⟩⟩

end Sys2Proof.Proofs

/-! # Proofs: the invariants every step keeps (spec/10_state.md, spec/42_stream.md R186, R187)

Each invariant is kept by every instruction, and a host move besides a command changes the memory alone and only outside
a stream. -/

namespace Sys2Proof.Proofs

open Sys2Proof.Machine Sys2Proof.Laws

variable {s t : State}

/-! ### The step by the host's move -/

theorem step_command {code : BitVec 3} {cfgIn : Cfg} {decIn : List Byte} {waiting : List HostMove}
    (h : s.host = .command code cfgIn decIn :: waiting) :
    step s = exec (decodeCommand code cfgIn decIn) { s with host := waiting } := by
  simp [step, nextMove, h]

theorem step_present {bytes : List Byte} {waiting : List HostMove} (h : s.host = .present bytes :: waiting) :
    step s = presentMemory bytes { s with host := waiting } := by
  simp [step, nextMove, h]

/-- What a step completes with: nothing, a memory presented outside a stream, or one instruction. -/
theorem step_eq_next (h : step s = .next t) :
    t = s ∨
    (∃ bytes waiting, s.seq.status ≠ .running ∧ bytes.length ≤ 2 ^ s.addrW ∧
      t = { s with host := waiting, mem := Memory.ofBytes bytes }) ∨
    (∃ i waiting, exec i { s with host := waiting } = .next t) := by
  rcases step_cases s with ⟨-, hs⟩ | ⟨bytes, waiting, -, hs⟩ | ⟨code, cfgIn, decIn, waiting, -, hs⟩
  · cases hs.symm.trans h
    exact .inl rfl
  · refine .inr (.inl ⟨bytes, waiting, ?_⟩)
    rcases presentMemory_cases bytes { s with host := waiting } with ⟨-, hp⟩ | ⟨-, -, hp⟩ | ⟨hr, hl, hp⟩
    · cases hp.symm.trans (hs.symm.trans h)
    · cases hp.symm.trans (hs.symm.trans h)
    · cases hp.symm.trans (hs.symm.trans h)
      exact ⟨hr, hl, rfl⟩
  · exact .inr (.inr ⟨_, waiting, hs ▸ h⟩)

/-! ### The ranges of a decoded block -/

/-- The history and the emissions of a list of units from an int16 history, under every parameter (R22, R108). -/
theorem decodeUnits_ranges (P : Params) (f : Header) (d : BlockData) (us : List (Fin 16)) {h : Hist}
    (h1 : InInt16 h.prev1) (h2 : InInt16 h.prev2) :
    InInt16 (decodeUnits P f d us h).2.prev1 ∧ InInt16 (decodeUnits P f d us h).2.prev2 ∧
    ∀ v ∈ (decodeUnits P f d us h).1, -65536 ≤ v ∧ v ≤ 65534 ∧ v % 2 = 0 := by
  induction us generalizing h with
  | nil => exact ⟨h1, h2, by simp [decodeUnits]⟩
  | cons i rest ih =>
    have hc := clamp16_inInt16 (shiftStage P f.shift (unitValue d i) + filterTerm P f.filter h)
    obtain ⟨r1, r2, hv⟩ := ih (h := (decodeUnitFields P f d i h).2) hc h1
    refine ⟨r1, r2, fun v hmem => ?_⟩
    rcases List.mem_cons.mp hmem with rfl | hrest
    · rw [decodeUnitFields_emission, decodeUnitFields_hist]
      obtain ⟨hlo, hhi⟩ := hc
      dsimp only
      omega
    · exact hv v hrest

/-! ### The safe states -/

/-- What the host's list holds does not matter to safety. -/
theorem safe_withHost (h : Safe s) (waiting : List HostMove) : Safe { s with host := waiting } :=
  let ⟨⟨h1, h2, hl, hc, ho, hdl, hd⟩, ⟨hw, hm⟩, hf⟩ := h
  ⟨⟨h1, h2, hl, hc, ho, hdl, hd⟩, ⟨hw, hm⟩, hf⟩

theorem safe_present {bytes : List Byte} (h : Safe s) (hr : s.seq.status ≠ .running)
    (hl : bytes.length ≤ 2 ^ s.addrW) : Safe { s with mem := Memory.ofBytes bytes } :=
  let ⟨h1, h2, hlev, hc, ho, hdl, hd⟩ := h.registers
  ⟨⟨h1, h2, hlev, hc, ho, hdl, hd⟩, ⟨ofBytes_wf bytes, hl⟩, fun hrun => absurd hrun hr⟩

theorem safe_setEnv {e : Env} (h : Safe s) (he : e.level ≤ 2047) : Safe { s with env := e } :=
  let ⟨h1, h2, _, hc, ho, hdl, hd⟩ := h.registers
  ⟨⟨h1, h2, he, hc, ho, hdl, hd⟩, ⟨h.memory.wf, h.memory.len⟩, h.fetch⟩

theorem safe_setCfg {c : Cfg} (h : Safe s) (hc : cfgInRange s.addrW s.frameW c = true) : Safe { s with cfg := c } :=
  let ⟨h1, h2, hlev, _, ho, hdl, hd⟩ := h.registers
  ⟨⟨h1, h2, hlev, hc, ho, hdl, hd⟩, ⟨h.memory.wf, h.memory.len⟩, h.fetch⟩

/-- A block decoded from the history keeps the ranges of HIST and DEC_OUT (R22, R35). -/
theorem safe_blockToDecOut (h : Safe s) (P : Params) (f : Header) (d : BlockData) :
    Safe (blockToDecOut P f d s) := by
  obtain ⟨h1, h2, hlev, hc, ho, -, -⟩ := h.registers
  obtain ⟨r1, r2, hv⟩ := decodeUnits_ranges P f d allUnits h1 h2
  refine ⟨⟨r1, r2, hlev, hc, ho, decodeUnits_length P f d allUnits s.hist, fun v hmem => ?_⟩,
    ⟨h.memory.wf, h.memory.len⟩, h.fetch⟩
  obtain ⟨hlo, hhi, heven⟩ := hv v hmem
  exact ⟨⟨hlo, by omega⟩, heven⟩

theorem inInt16_zero : InInt16 0 := by decide

/-- START leaves 9 bytes at the cursor of the stream it begins (R40, R172). -/
theorem fetchReady_start (s : State) : FetchReady ((freshStream s).setStatus (startStatus s)) :=
  fun hrun => by simpa using (of_startStatus_running hrun).1

theorem safe_start (h : Safe s) : Safe ((freshStream s).setStatus (startStatus s)) := by
  obtain ⟨-, -, -, hc, -, hdl, hd⟩ := h.registers
  exact ⟨⟨inInt16_zero, inInt16_zero, Nat.zero_le _, hc, by simp, hdl, hd⟩, ⟨h.memory.wf, h.memory.len⟩,
    fetchReady_start s⟩

theorem cfgInRange_zero (addrW frameW : Nat) : cfgInRange addrW frameW Cfg.zero = true := by
  simp [cfgInRange, Cfg.zero]

/-- The reset value of DEC_OUT is in range (R35). -/
theorem reset_decOut_range : ∀ v ∈ State.reset.decOut, InInt17 v ∧ v % 2 = 0 := by decide

/-- RESET keeps a memory in form and clears every register (R220). -/
theorem safe_reset (h : Safe s) (ht : execReset s = .next t) : Safe t := by
  cases ht
  exact ⟨⟨inInt16_zero, inInt16_zero, Nat.zero_le _, cfgInRange_zero _ _, by simp, rfl, reset_decOut_range⟩,
    ⟨h.memory.wf, h.memory.len⟩, by simp⟩

/-- One frame adds an int16 to OUT (R34). -/
theorem frameOf_out_range (P : Params) (b : Block) (h : ∀ v ∈ s.out, InInt16 v) :
    ∀ v ∈ (frameOf P b s).out, InInt16 v := by
  intro v hmem
  rcases List.mem_append.mp hmem with hold | hnew
  · exact h v hold
  · rw [List.mem_singleton.mp hnew]
    exact applyGain_inInt16 _ _ _ _

/-- After a frame the fetch check or the unmoved cursor leaves 9 bytes where the stream goes on (R40). -/
theorem fetchReady_frameOf (P : Params) (b : Block) (h : s.seq.cursor + 9 ≤ s.mem.len) :
    FetchReady (frameOf P b s) := by
  intro hrun
  by_cases hu : s.seq.unit = 15
  · exact (of_frameOf_running hrun).2.1 hu
  · rw [frameOf_cursor_of_unit_ne hu]
    exact h

/-- One frame keeps the ranges, and the fetch check keeps 9 bytes at the cursor where the stream goes on (R40). -/
theorem safe_frameOf (h : Safe s) (P : Params) (b : Block) (hr : s.seq.status = .running) :
    Safe (frameOf P b s) := by
  obtain ⟨h1, -, hlev, hc, ho, hdl, hd⟩ := h.registers
  exact ⟨⟨clamp16_inInt16 _, h1, envTick_level_le _ _ hlev, hc, frameOf_out_range P b ho, hdl, hd⟩,
    ⟨h.memory.wf, h.memory.len⟩, fetchReady_frameOf P b (h.fetch hr)⟩

/-- Every instruction keeps safety, each by the lemma of what it writes. -/
theorem safe_exec {i : Instr} (h : Safe s) (ht : exec i s = .next t) : Safe t := by
  cases i with
  | brrF0 | brrF1 | brrF2 | brrF3 => cases ht; exact safe_blockToDecOut h _ _ _
  | reset => exact safe_reset h ht
  | config c =>
    obtain ⟨-, hc, rfl⟩ := execConfig_eq_next.mp ht
    exact safe_setCfg h hc
  | start =>
    cases (exec_start s).symm.trans ht
    exact safe_start h
  | step =>
    rcases streamStep_eq_next ht with ⟨-, rfl⟩ | ⟨hr, b, -, rfl⟩
    · exact h
    · exact safe_frameOf h _ b hr
  | keyOn => cases ht; exact safe_setEnv h (Nat.zero_le _)
  | keyOff => cases ht; exact safe_setEnv h h.registers.level
  | envTick =>
    obtain ⟨-, rfl⟩ := execEnvTick_eq_next.mp ht
    exact safe_setEnv h (envTick_level_le _ _ h.registers.level)
  | decode bytes =>
    obtain ⟨-, b, -, rfl⟩ := execDecode_eq_next.mp ht
    exact safe_blockToDecOut h _ _ _

/-- Settles O54: a presented memory by `safe_present`, a command by `safe_exec`. -/
theorem everyStepKeepsSafety : Obligations.EveryStepKeepsSafety := by
  unfold Obligations.EveryStepKeepsSafety
  intro s t h ht
  rcases step_eq_next ht with rfl | ⟨bytes, waiting, hr, hl, rfl⟩ | ⟨i, waiting, hi⟩
  · exact h
  · exact safe_present (safe_withHost h waiting) hr hl
  · exact safe_exec (safe_withHost h waiting) hi

/-! ### The counters of a stream -/

/-- The counters read OUT, SEQ and CFG alone. -/
theorem streamCounters_congr (h : StreamCounters s) (hout : t.out = s.out) (hseq : t.seq = s.seq)
    (hcfg : t.cfg = s.cfg) : StreamCounters t := by
  constructor <;> simp only [hout, hseq, hcfg]
  exacts [h.outLength, h.unit, h.idle, h.atBoundary, h.looping, h.straight]

/-- Outside a stream the counters hold under every configuration. -/
theorem streamCounters_setCfg (h : StreamCounters s) (hr : s.seq.status ≠ .running) (c : Cfg) :
    StreamCounters { s with cfg := c } :=
  ⟨h.outLength, h.unit, h.idle, h.atBoundary, fun hrun => absurd hrun hr, fun hrun => absurd hrun hr⟩

/-- START sets the counters from any state (R172). -/
theorem streamCounters_start (s : State) : StreamCounters ((freshStream s).setStatus (startStatus s)) where
  outLength := rfl
  unit := rfl
  idle := fun _ => rfl
  atBoundary := fun _ => rfl
  looping := fun hrun => (of_startStatus_running hrun).2
  straight := fun _ _ => by simp

/-- RESET sets the counters from any state (R220). -/
theorem streamCounters_reset (ht : execReset s = .next t) : StreamCounters t := by
  cases ht
  exact ⟨rfl, rfl, fun _ => rfl, fun _ => rfl, by simp, by simp⟩

/-- The unit after a frame is one further, and 0 after 15 (R177). -/
theorem unit_succ_val (u : Fin 16) : (u + 1).val = (u.val + 1) % 16 := by
  revert u; decide

/-- One frame keeps the counters: it counts itself in OUT, `frames` and the unit, and moves on where a block ends. -/
theorem streamCounters_frameOf (h : StreamCounters s) (P : Params) (b : Block) (hr : s.seq.status = .running) :
    StreamCounters (frameOf P b s) where
  outLength := by
    show (s.out ++ [_]).length = s.seq.frames + 1
    simp [h.outLength]
  unit := by
    show (s.seq.frames + 1) % 16 = (s.seq.unit + 1).val
    rw [unit_succ_val, ← h.unit]
    omega
  idle := fun hidle => absurd hidle frameOf_status_ne_idle
  atBoundary := fun hend => by
    show s.seq.unit + 1 = 0
    rw [unit_of_frameOf_ended hend]
    rfl
  looping := fun hrun => (of_frameOf_running hrun).2.2
  straight := fun hrun hl => by
    show _ = 9 * ((s.seq.frames + 1) / 16)
    have hunit := h.unit
    have hcur : s.seq.cursor = 9 * (s.seq.frames / 16) := h.straight hr hl
    by_cases hu : s.seq.unit = 15
    · rw [frameOf_cursor_straight hu hl fun hk => (of_frameOf_running hrun).1 ⟨hu, hk⟩]
      rw [hu] at hunit
      simp only [Fin.isValue, Fin.coe_ofNat_eq_mod] at hunit
      omega
    · rw [frameOf_cursor_of_unit_ne hu]
      have hne : s.seq.unit.val ≠ 15 := fun hv => hu (Fin.ext hv)
      omega

/-- Every instruction keeps the counters. -/
theorem streamCounters_exec {i : Instr} (h : StreamCounters s) (ht : exec i s = .next t) : StreamCounters t := by
  cases i with
  | brrF0 | brrF1 | brrF2 | brrF3 | keyOn | keyOff => cases ht; exact streamCounters_congr h rfl rfl rfl
  | reset => exact streamCounters_reset ht
  | config c =>
    obtain ⟨hr, -, rfl⟩ := execConfig_eq_next.mp ht
    exact streamCounters_setCfg h hr c
  | start =>
    cases (exec_start s).symm.trans ht
    exact streamCounters_start s
  | step =>
    rcases streamStep_eq_next ht with ⟨-, rfl⟩ | ⟨hr, b, -, rfl⟩
    · exact h
    · exact streamCounters_frameOf h _ b hr
  | envTick =>
    obtain ⟨-, rfl⟩ := execEnvTick_eq_next.mp ht
    exact streamCounters_congr h rfl rfl rfl
  | decode bytes =>
    obtain ⟨-, b, -, rfl⟩ := execDecode_eq_next.mp ht
    exact streamCounters_congr h rfl rfl rfl

/-- Settles O55: a presented memory leaves the counters alone, a command keeps them by `streamCounters_exec`. -/
theorem everyStepKeepsStreamCounters : Obligations.EveryStepKeepsStreamCounters := by
  unfold Obligations.EveryStepKeepsStreamCounters
  intro s t h ht
  rcases step_eq_next ht with rfl | ⟨bytes, waiting, -, -, rfl⟩ | ⟨i, waiting, hi⟩
  · exact h
  · exact streamCounters_congr h rfl rfl rfl
  · exact streamCounters_exec (s := { s with host := waiting }) (streamCounters_congr h rfl rfl rfl) hi

/-! ### The state at reset -/

/-- Settles O53: each register at its reset value. -/
theorem resetStateIsSafe : Obligations.ResetStateIsSafe := by
  unfold Obligations.ResetStateIsSafe
  have hregs : RegistersInRange State.reset :=
    ⟨inInt16_zero, inInt16_zero, Nat.zero_le _, cfgInRange_zero _ _, by simp [State.reset], rfl, reset_decOut_range⟩
  have hidle : State.reset.seq.status ≠ .running := by decide
  exact ⟨⟨hregs, ⟨reset_mem_wf, Nat.zero_le _⟩, fun hr => absurd hr hidle⟩,
    ⟨rfl, rfl, fun _ => rfl, fun _ => rfl, fun hr => absurd hr hidle, fun hr => absurd hr hidle⟩⟩

/-! ### The faults (spec/60_exceptions.md) -/

/-- A fault of STEP is the fetch past the memory (R14). -/
theorem streamStep_eq_fault {P : Params} {r : Fault} (h : streamStep P s = .fault r) :
    s.seq.status = .running ∧ s.mem.len < s.seq.cursor + 9 := by
  rcases streamStep_cases P s with ⟨-, hs⟩ | ⟨hr, hl, -⟩ | ⟨-, s₁, -, hs⟩
  · cases hs.symm.trans h
  · exact ⟨hr, (latchBlock_eq_none.mp hl).2⟩
  · cases hs.symm.trans h

/-- A fault of DECODE is MalformedBlock with the operand's length (R201). -/
theorem execDecode_eq_fault {bytes : List Byte} {r : Fault} (h : execDecode bytes s = .fault r) :
    r = .malformedBlock bytes.length ∧ bytes.length ≠ 9 := by
  unfold execDecode at h
  split at h
  · cases h
  · split at h
    · next hb =>
      cases h
      refine ⟨rfl, fun hlen => ?_⟩
      obtain ⟨b, rfl⟩ := exists_toBytes_of_length hlen
      cases hb
    · cases h

/-- Where the fetch is ready the only fault of an instruction is MalformedBlock. -/
theorem exec_eq_fault {i : Instr} {r : Fault} (hf : FetchReady s) (h : exec i s = .fault r) :
    ∃ n, r = .malformedBlock n ∧ n ≠ 9 := by
  cases i with
  | brrF0 | brrF1 | brrF2 | brrF3 | reset | start | keyOn | keyOff => cases h
  | config c =>
    simp only [exec, execConfig] at h
    split at h
    · cases h
    · split at h <;> cases h
  | step =>
    obtain ⟨hr, hm⟩ := streamStep_eq_fault h
    exact absurd (hf hr) (Nat.not_le.mpr hm)
  | envTick =>
    simp only [exec, execEnvTick] at h
    split at h <;> cases h
  | decode bytes =>
    obtain ⟨rfl, hlen⟩ := execDecode_eq_fault h
    exact ⟨_, rfl, hlen⟩

/-- Settles O56: a presented memory never faults, and a command in a safe state only by its operand. -/
theorem safeStatesOnlyFaultOnMalformedBlocks : Obligations.SafeStatesOnlyFaultOnMalformedBlocks := by
  unfold Obligations.SafeStatesOnlyFaultOnMalformedBlocks
  intro s r h hr
  rcases step_cases s with ⟨-, hs⟩ | ⟨bytes, waiting, -, hs⟩ | ⟨code, cfgIn, decIn, waiting, -, hs⟩
  · cases hs.symm.trans hr
  · rcases presentMemory_cases bytes { s with host := waiting } with ⟨-, hp⟩ | ⟨-, -, hp⟩ | ⟨-, -, hp⟩ <;>
      cases hp.symm.trans (hs.symm.trans hr)
  · exact exec_eq_fault (safe_withHost h waiting).fetch (hs ▸ hr)

end Sys2Proof.Proofs

/-! # Proofs: the arithmetic of one unit (spec/40_brr_decode.md section 1, spec/00_scope.md R13, R16) -/

namespace Sys2Proof.Proofs

open Sys2Proof.Machine Sys2Proof.Laws

/-! ### The shift stage (R103, R104) -/

section
variable (P : Params) {shift : BitVec 4} (u : Int)

theorem shiftStage_normal (h : shift.toNat ≤ 12) : shiftStage P shift u = u * 2 ^ shift.toNat / 2 := by
  simp [shiftStage, h, asr, shl]

/-- With a shift of 1 and more nothing is rounded. -/
theorem shiftStage_normal_exact (h : shift.toNat ≤ 12) (h1 : 1 ≤ shift.toNat) :
    shiftStage P shift u = u * 2 ^ (shift.toNat - 1) := by
  obtain ⟨k, hk⟩ := Nat.exists_eq_add_of_le' h1
  rw [shiftStage_normal P u h, hk, pow_succ, ← mul_assoc, Nat.add_sub_cancel]
  exact Int.mul_ediv_cancel _ (by decide)

/-- The range of the shift stage for a unit in -8..7 (R103). -/
theorem shiftStage_normal_range (h : shift.toNat ≤ 12) (hlo : -8 ≤ u) (hhi : u ≤ 7) :
    -16384 ≤ shiftStage P shift u ∧ shiftStage P shift u ≤ 14336 := by
  have hpos : (0 : Int) < 2 ^ shift.toNat := by positivity
  have hle : (2 : Int) ^ shift.toNat ≤ 4096 := pow_le_pow_right₀ (a := 2) (by decide) h
  have hmin : -32768 ≤ u * 2 ^ shift.toNat := by nlinarith
  have hmax : u * 2 ^ shift.toNat ≤ 28672 := by nlinarith
  rw [shiftStage_normal P u h]
  omega

theorem shiftStage_high (h : 13 ≤ shift.toNat) : shiftStage P shift u = P.hiShift u := if_neg (by omega)

end

theorem hiShiftDefault_allowed : HiShiftAllowed hiShiftDefault := fun u v h => by simp [hiShiftDefault, h]

/-- The range of the shift stage with the high shift of this hardware, whatever the shift (R116). -/
theorem shiftStage_range {P : Params} (hP : P.hiShift = hiShiftDefault) (shift : BitVec 4) {u : Int} (hlo : -8 ≤ u)
    (hhi : u ≤ 7) : -16384 ≤ shiftStage P shift u ∧ shiftStage P shift u ≤ 14336 := by
  by_cases h : shift.toNat ≤ 12
  · exact shiftStage_normal_range P u h hlo hhi
  · rw [shiftStage_high P u (by omega), hP, hiShiftDefault]
    split <;> omega

/-- Settles O6: by `floor(x / 2)` and, for the consequences, the exact form and the range. -/
theorem normalShiftRoundsDown : Obligations.NormalShiftRoundsDown := by
  unfold Obligations.NormalShiftRoundsDown
  intro P shift u h
  refine ⟨?_, ?_, shiftStage_normal_exact P u h, shiftStage_normal_range P u h⟩ <;>
  · rw [shiftStage_normal P u h]
    omega

/-- Settles O7: the high shift is `HI_SHIFT`, of which R104 says the rest. -/
theorem highShiftKeepsOnlyTheSign : Obligations.HighShiftKeepsOnlyTheSign := by
  unfold Obligations.HighShiftKeepsOnlyTheSign
  intro shift u v h
  refine ⟨fun P => shiftStage_high P u h, fun P hP huv => ?sign, fun hu => ?neg, fun hu => ?nonneg⟩
  case sign => rw [shiftStage_high P u h, shiftStage_high P v h, hP.hiShift u v huv]
  case neg => rw [shiftStage_high params u h]; exact if_pos hu
  case nonneg => rw [shiftStage_high params u h]; exact if_neg (Int.not_lt.mpr hu)

/-! ### The roundings (R13, R16) -/

/-- `rhe` by the quotient and the remainder. -/
theorem rhe_eq (n d : Int) :
    rhe n d = if 2 * (n % d) < d then n / d else if d < 2 * (n % d) then n / d + 1
      else if n / d % 2 = 0 then n / d else n / d + 1 := by
  have hr : n - n / d * d = n % d := by rw [Int.emod_def, mul_comm]
  simp only [rhe, hr]

/-- Everything `rhe` can answer: the quotient below the half, the next integer above it, the even one of them at it. -/
theorem rhe_cases (n d : Int) :
    (2 * (n % d) < d ∧ rhe n d = n / d) ∨ (d < 2 * (n % d) ∧ rhe n d = n / d + 1) ∨
      (2 * (n % d) = d ∧ rhe n d % 2 = 0 ∧ (rhe n d = n / d ∨ rhe n d = n / d + 1)) := by
  rw [rhe_eq]
  split
  · exact .inl ⟨‹_›, rfl⟩
  · split
    · exact .inr (.inl ⟨‹_›, rfl⟩)
    · refine .inr (.inr ⟨by omega, ?_⟩)
      split <;> omega

/-- Twice the distance of `rhe` from the rational, in units of `1 / d`. -/
theorem rhe_distance (n d : Int) :
    (2 * (n % d) < d ∧ 2 * (rhe n d * d - n) = -(2 * (n % d))) ∨
      (d < 2 * (n % d) ∧ 2 * (rhe n d * d - n) = 2 * d - 2 * (n % d)) ∨
      (2 * (n % d) = d ∧ rhe n d % 2 = 0 ∧ (2 * (rhe n d * d - n) = d ∨ 2 * (rhe n d * d - n) = -d)) := by
  have hdiv : n / d * d = n - n % d := by rw [Int.emod_def, mul_comm d]; omega
  rcases rhe_cases n d with ⟨hr, hq⟩ | ⟨hr, hq⟩ | ⟨hr, heven, hq | hq⟩
  · exact .inl ⟨hr, by rw [hq, hdiv]; omega⟩
  · exact .inr (.inl ⟨hr, by rw [hq, add_mul, hdiv]; omega⟩)
  · exact .inr (.inr ⟨hr, heven, .inr (by rw [hq, hdiv]; omega)⟩)
  · exact .inr (.inr ⟨hr, heven, .inl (by rw [hq, add_mul, hdiv]; omega)⟩)

theorem rhe_allowed : FilterRoundAllowed rhe where
  near n d hd := by
    have hlo := Int.emod_nonneg n hd.ne'
    have hhi := Int.emod_lt_of_pos n hd
    rcases rhe_distance n d with h | h | h <;> omega
  exact k d hd := by
    rw [rhe_eq, Int.mul_emod_left, Int.mul_ediv_cancel _ hd.ne']
    exact if_pos hd
  ofValue n d k hd hk := by
    rw [rhe_eq, rhe_eq, Int.mul_emod_mul_of_pos _ _ hk, Int.mul_ediv_mul_of_pos _ _ hk]
    have hlt (x y : Int) : k * x < k * y ↔ x < y := mul_lt_mul_iff_right₀ hk
    simp only [mul_left_comm 2 k, hlt]

/-- At a tie `rhe` takes the even integer. -/
theorem rhe_even_of_tie {n d : Int} (hd : 0 < d)
    (h : 2 * (rhe n d * d - n) = d ∨ 2 * (rhe n d * d - n) = -d) : rhe n d % 2 = 0 := by
  have hlo := Int.emod_nonneg n hd.ne'
  have hhi := Int.emod_lt_of_pos n hd
  rcases rhe_distance n d with hr | hr | ⟨-, heven, -⟩
  · omega
  · omega
  · exact heven

/-- The part `trunc` cuts off has the sign of the numerator and is less than 1. -/
theorem trunc_distance {n d : Int} (hd : 0 < d) :
    (0 ≤ n → 0 ≤ trunc n d ∧ 0 ≤ n - trunc n d * d ∧ n - trunc n d * d < d) ∧
    (n ≤ 0 → trunc n d ≤ 0 ∧ n - trunc n d * d ≤ 0 ∧ -d < n - trunc n d * d) := by
  have hrem : n - trunc n d * d = n.tmod d := by rw [Int.tmod_def, mul_comm d]; rfl
  rw [hrem]
  refine ⟨fun hn => ⟨Int.tdiv_nonneg hn hd.le, Int.tmod_nonneg d hn, Int.tmod_lt_of_pos n hd⟩, fun hn => ?_⟩
  have hneg : (-n).tmod d = -n.tmod d := Int.neg_tmod n d
  have hdiv : (-n).tdiv d = -trunc n d := Int.neg_tdiv n d
  have h1 := Int.tdiv_nonneg (Int.neg_nonneg.mpr hn) hd.le
  have h2 := Int.tmod_nonneg d (Int.neg_nonneg.mpr hn)
  have h3 := Int.tmod_lt_of_pos (-n) hd
  omega

theorem trunc_allowed : GainRoundAllowed trunc where
  near n d hd := by
    obtain ⟨hpos, hneg⟩ := trunc_distance (n := n) hd
    omega
  exact k d hd := Int.mul_tdiv_cancel k hd.ne'
  ofValue n d k _ hk := Int.mul_tdiv_mul_of_pos n d hk

/-- Settles O8: `rhe` is nearest with ties to even, `trunc` cuts toward zero. -/
theorem defaultRoundingsAreAllowed : Obligations.DefaultRoundingsAreAllowed := by
  unfold Obligations.DefaultRoundingsAreAllowed
  refine ⟨⟨hiShiftDefault_allowed, rhe_allowed, trunc_allowed⟩, fun n d => rhe_even_of_tie, fun n d hd => ?_⟩
  obtain ⟨hpos, hneg⟩ := trunc_distance (n := n) hd
  omega

/-! ### The filter term and the ranges of a unit (R105, R116) -/

/-- Settles O9: each term is its rounding, at most 1/2 away. -/
theorem filterTermsAreNearTheFormulas : Obligations.FilterTermsAreNearTheFormulas := by
  unfold Obligations.FilterTermsAreNearTheFormulas
  intro P h hR
  have n1 := hR.near (15 * h.prev1) 16 (by decide)
  have n2 := hR.near (61 * h.prev1 - 30 * h.prev2) 32 (by decide)
  have n3 := hR.near (115 * h.prev1 - 52 * h.prev2) 64 (by decide)
  simp only [filterTerm, termF0, termF1, termF2, termF3]
  refine ⟨trivial, ?_, ?_, ?_⟩ <;> constructor <;> omega

/-- The range of the filter term from an int16 history: the outermost values are BRR.F2's. -/
theorem filterTerm_range {P : Params} (hR : FilterRoundAllowed P.filterRound) (f : Filter) {h : Hist}
    (h1 : InInt16 h.prev1) (h2 : InInt16 h.prev2) : -93183 ≤ filterTerm P f h ∧ filterTerm P f h ≤ 93182 := by
  obtain ⟨t0, t1, t2, t3⟩ := filterTermsAreNearTheFormulas P h hR
  cases f <;> omega

/-- Settles O11: the parts by their ranges, the emission as twice a clamped sum. -/
theorem intermediateValuesStayInRange : Obligations.IntermediateValuesStayInRange := by
  unfold Obligations.IntermediateValuesStayInRange
  intro P f d i h hR hP h1 h2
  have hu := unitValue_range d i
  have ha := shiftStage_range hP f.shift hu.1 hu.2
  have ht := filterTerm_range hR f.filter h1 h2
  have hc := clamp16_inInt16 (shiftStage P f.shift (unitValue d i) + filterTerm P f.filter h)
  refine ⟨hu, ha, ht, by omega, ?_⟩
  rw [decodeUnitFields_emission, decodeUnitFields_hist]
  dsimp only
  omega

end Sys2Proof.Proofs

/-! # Proofs: the block instructions and DECODE (spec/40_brr_decode.md sections 2 and 3)

The recurrence of the four variants is one: `blockSample` lists the history before a block and then its samples, and the
next sample is the clamp of the shift stage and the filter term of the two before it. -/

namespace Sys2Proof.Proofs

open Sys2Proof.Machine Sys2Proof.Laws

/-! ### The recurrence of a block -/

section
variable (P : Params) (f : Header) (d : BlockData) (h : Hist)

/-- Sample `n` of a block: 0 and 1 are the history before it, `i + 2` is the sample of unit `i`. -/
def blockSample : Nat → Int
  | 0 => h.prev2
  | n + 1 => (historyAtUnit P f d h n).prev1

/-- The history a unit meets is the two samples before its own (R107). -/
theorem historyAtUnit_eq_blockSample {k : Nat} (hk : k ≤ 16) :
    historyAtUnit P f d h k = ⟨blockSample P f d h (k + 1), blockSample P f d h k⟩ := by
  cases k with
  | zero => rfl
  | succ k => exact congrArg (Hist.mk _) (historyAtUnit_succ_prev2 P f d h ⟨k, hk⟩)

/-- The recurrence: the clamped sum of the shift stage and the filter term of the two samples before (R105, R106). -/
theorem blockSample_succ_succ (i : Fin 16) :
    blockSample P f d h (i.val + 2) =
      clamp16 (shiftStage P f.shift (unitValue d i) +
        filterTerm P f.filter ⟨blockSample P f d h (i.val + 1), blockSample P f d h i.val⟩) := by
  show (historyAtUnit P f d h (i.val + 1)).prev1 = _
  rw [historyAtUnit_succ, decodeUnitFields_hist, historyAtUnit_eq_blockSample P f d h i.isLt.le]

/-- A block leaves its last two samples in the history and twice each sample as its emissions (R108, R109). -/
theorem decodeBlockFields_eq_blockSample :
    decodeBlockFields P f d h =
      ((List.range 16).map fun k => 2 * blockSample P f d h (k + 2),
        ⟨blockSample P f d h 17, blockSample P f d h 16⟩) :=
  Prod.ext (decodeUnits_take_emissions P f d h (Nat.le_refl 16))
    (historyAtUnit_eq_blockSample P f d h (Nat.le_refl 16))

end

/-- A block instruction by its recurrence: `c` lists the history before the block and then the samples. -/
theorem exec_brrInstr_recurrence (f : Header) (d : BlockData) (s : State) :
    ∃ c : Nat → Int, c 0 = s.hist.prev2 ∧ c 1 = s.hist.prev1 ∧
      (∀ i : Fin 16, c (i.val + 2) = clamp16 (shiftStage params f.shift (unitValue d i) +
        filterTerm params f.filter ⟨c (i.val + 1), c i.val⟩)) ∧
      exec (brrInstr f d) s = .next
        { s with hist := ⟨c 17, c 16⟩, decOut := (List.range 16).map (fun k => 2 * c (k + 2)) } := by
  refine ⟨blockSample params f d s.hist, rfl, rfl, blockSample_succ_succ params f d s.hist, ?_⟩
  rw [exec_brrInstr, blockToDecOut, decodeBlockFields_eq_blockSample]

/-! ### The variants -/

/-- With this hardware's high shift the clamp leaves a unit without prediction as it is (R110). -/
theorem clamp16_shiftStage (shift : BitVec 4) (d : BlockData) (i : Fin 16) :
    clamp16 (shiftStage params shift (unitValue d i)) = shiftStage params shift (unitValue d i) := by
  obtain ⟨hlo, hhi⟩ := unitValue_range d i
  have ha := shiftStage_range (P := params) rfl shift hlo hhi
  exact clamp16_of_inInt16 ⟨by omega, by omega⟩

/-- Settles O14: the recurrence with the term 0, whose clamp does nothing. -/
theorem brrF0DecodesWithoutPrediction : Obligations.BrrF0DecodesWithoutPrediction := by
  unfold Obligations.BrrF0DecodesWithoutPrediction
  intro shift l e data s
  obtain ⟨c, -, -, hc, hexec⟩ := exec_brrInstr_recurrence ⟨shift, .f0, l, e⟩ data s
  refine ⟨fun i => c (i.val + 2), fun i => ?_, hexec.trans ?_⟩
  · exact (hc i).trans ((congrArg clamp16 (add_zero _)).trans (clamp16_shiftStage shift data i))
  · rw [← List.map_coe_finRange_eq_range, List.map_map]
    rfl

/-- Settles O15: the recurrence with BRR.F1's term. -/
theorem brrF1DecodesWithFirstOrderPrediction : Obligations.BrrF1DecodesWithFirstOrderPrediction :=
  fun shift l e data s => exec_brrInstr_recurrence ⟨shift, .f1, l, e⟩ data s

/-- Settles O16: the recurrence with BRR.F2's term. -/
theorem brrF2DecodesWithSecondOrderPrediction : Obligations.BrrF2DecodesWithSecondOrderPrediction :=
  fun shift l e data s => exec_brrInstr_recurrence ⟨shift, .f2, l, e⟩ data s

/-- Settles O17: the recurrence with BRR.F3's term. -/
theorem brrF3DecodesWithSecondOrderPrediction : Obligations.BrrF3DecodesWithSecondOrderPrediction :=
  fun shift l e data s => exec_brrInstr_recurrence ⟨shift, .f3, l, e⟩ data s

/-! ### The flags (R114) -/

/-- The block function reads the shift and the filter of its header alone. -/
theorem decodeUnits_congr (P : Params) {f g : Header} (d : BlockData) (us : List (Fin 16)) (h : Hist)
    (hs : f.shift = g.shift) (hf : f.filter = g.filter) : decodeUnits P f d us h = decodeUnits P g d us h := by
  induction us generalizing h with
  | nil => rfl
  | cons i rest ih => simp only [decodeUnits, decodeUnitFields, hs, hf, ih]

theorem blockToDecOut_congr (P : Params) {f g : Header} (d : BlockData) (s : State) (hs : f.shift = g.shift)
    (hf : f.filter = g.filter) : blockToDecOut P f d s = blockToDecOut P g d s := by
  simp only [blockToDecOut, decodeBlockFields, decodeUnits_congr P d allUnits s.hist hs hf]

/-- DECODE of a block's bytes, by the status. -/
theorem exec_decode_toBytes (b : Block) (s : State) :
    exec (.decode b.toBytes) s = if s.seq.status = .running then .refused .historyOwnedByStream
      else .next (blockToDecOut params (headerFields b.hdr) b.data s) := rfl

/-- Headers that agree outside the flags' places have the same shift and filter. -/
theorem headerFields_congr {hdr hdr' : Byte} (h : hdr &&& 0xFC = hdr' &&& 0xFC) :
    (headerFields hdr).shift = (headerFields hdr').shift ∧
      (headerFields hdr).filter = (headerFields hdr').filter := by
  have hh := headerFields_and_FC hdr
  rw [h, headerFields_and_FC hdr', Header.mk.injEq] at hh
  exact ⟨hh.1.symm, hh.2.1.symm⟩

/-- Settles O13: the block function does not read the flags, and DECODE and the block instructions run it. -/
theorem flagsDoNotAffectDecoding : Obligations.FlagsDoNotAffectDecoding := by
  unfold Obligations.FlagsDoNotAffectDecoding
  refine ⟨fun P f g d h hs hf => decodeUnits_congr P d allUnits h hs hf, ?port, ?bare⟩
  case port =>
    intro b b' s hhdr hdata
    obtain ⟨hs, hf⟩ := headerFields_congr hhdr
    rw [exec_decode_toBytes, exec_decode_toBytes, hdata, blockToDecOut_congr params b'.data s hs hf]
  case bare =>
    intro shift l e l' e' data s
    have hbare (f : Filter) :
        exec (brrInstr ⟨shift, f, l, e⟩ data) s = exec (brrInstr ⟨shift, f, l', e'⟩ data) s := by
      rw [exec_brrInstr, exec_brrInstr]
      exact congrArg _ (blockToDecOut_congr params data s rfl rfl)
    exact ⟨hbare .f0, hbare .f1, hbare .f2, hbare .f3⟩

/-! ### DECODE (R115, R201, R205) -/

/-- Settles O18: the nine bytes are a block's, and DECODE runs it. -/
theorem decodeRunsTheBlockOnItsPort : Obligations.DecodeRunsTheBlockOnItsPort := by
  unfold Obligations.DecodeRunsTheBlockOnItsPort
  intro bytes s hr hlen
  obtain ⟨b, rfl⟩ := exists_toBytes_of_length hlen
  exact ⟨_, _, decode_toBytes b, (exec_decode_toBytes b s).trans (if_neg hr), exec_brrInstr _ _ s, rfl,
    decodeUnits_length params _ b.data allUnits s.hist⟩

/-- Settles O19: the status is looked at before the length. -/
theorem decodeStopsByName : Obligations.DecodeStopsByName := by
  unfold Obligations.DecodeStopsByName
  intro bytes s
  refine ⟨fun hr => if_pos hr, fun hr hlen => ?_⟩
  simp [exec, execDecode, hr, ofBytes_of_length_ne hlen]

end Sys2Proof.Proofs

/-! # Proofs: the envelope (spec/41_envelope.md) -/

namespace Sys2Proof.Proofs

open Sys2Proof.Machine Sys2Proof.Laws

/-! ### One tick, by the phase -/

section
variable {c : Cfg} {e : Env}

theorem envTick_attack (hen : c.envEnabled = true) (hp : e.phase = .attack) : envTick c e = attackTick c e := by
  simp [envTick, hen, hp]

theorem envTick_decay (hen : c.envEnabled = true) (hp : e.phase = .decay) : envTick c e = decayTick c e := by
  simp [envTick, hen, hp]

theorem envTick_sustain (hen : c.envEnabled = true) (hp : e.phase = .sustain) : envTick c e = sustainTick c e := by
  simp [envTick, hen, hp]

theorem envTick_release (hen : c.envEnabled = true) (hp : e.phase = .release) : envTick c e = releaseTick e := by
  simp [envTick, hen, hp]

end

/-- An Attack tick enters Decay or stays in Attack (R144). -/
theorem attackTick_cases (c : Cfg) (e : Env) :
    attackTick c e = ⟨.decay, 2047⟩ ∨ ∃ v, attackTick c e = ⟨.attack, v⟩ :=
  (ite_eq_or_eq _ _ _).imp id fun h => ⟨_, h⟩

/-- A Decay tick by the level after its decrement (R145). -/
theorem decayTick_eq (c : Cfg) (e : Env) :
    decayTick c e = ⟨if expDec e.level / 256 ≤ c.sustainLevel then .sustain else .decay, expDec e.level⟩ := by
  simp only [decayTick, Nat.shiftRight_eq_div_pow]
  split <;> simp_all

/-- The decrement as the spec writes it (R146). -/
theorem expDec_toInt (level : Nat) :
    (expDec level : Int) = max 0 ((level : Int) - max 1 (((level : Int) - 1) / 256)) := by
  rw [expDec_eq]
  omega

/-- The phases a tick can move to (R154). -/
theorem envTick_phase (c : Cfg) (e : Env) :
    (envTick c e).phase = e.phase ∨ (e.phase = .attack ∧ (envTick c e).phase = .decay) ∨
      (e.phase = .decay ∧ (envTick c e).phase = .sustain) := by
  cases hen : c.envEnabled with
  | false => exact .inl (by rw [envTick_disabled hen])
  | true =>
    cases hp : e.phase with
    | attack =>
      rw [envTick_attack hen hp]
      rcases attackTick_cases c e with h | ⟨v, h⟩ <;> simp [h]
    | decay =>
      rw [envTick_decay hen hp, decayTick_eq]
      dsimp only
      split <;> simp
    | sustain => exact .inl (by rw [envTick_sustain hen hp, sustainTick])
    | release => exact .inl (by rw [envTick_release hen hp, releaseTick])

/-! ### ENV_TICK -/

section
variable {s : State}

theorem exec_envTick (hr : s.seq.status ≠ .running) : exec .envTick s = .next { s with env := envTick s.cfg s.env } :=
  if_neg hr

/-- ENV_TICKs in a row are ticks of the envelope, and change nothing else. -/
theorem repeatExec_envTick (hr : s.seq.status ≠ .running) (n : Nat) :
    repeatExec .envTick n s = .next { s with env := envTicks s.cfg n s.env } := by
  induction n generalizing s with
  | zero => rfl
  | succ n ih =>
    rw [repeatExec, exec_envTick hr]
    exact ih (s := { s with env := envTick s.cfg s.env }) hr

end

theorem envTicks_add (c : Cfg) (m n : Nat) (e : Env) : envTicks c (m + n) e = envTicks c n (envTicks c m e) := by
  induction m generalizing e with
  | zero => rw [Nat.zero_add]; rfl
  | succ m ih => rw [Nat.succ_add]; exact ih _

theorem envTicks_succ (c : Cfg) (n : Nat) (e : Env) : envTicks c (n + 1) e = envTick c (envTicks c n e) :=
  envTicks_add c n 1 e

/-! ### Ticks in a row -/

section
variable {c : Cfg} (hen : c.envEnabled = true)
include hen

/-- Release falls by 8 a tick (R148). -/
theorem envTicks_release (n v : Nat) : envTicks c n ⟨.release, v⟩ = ⟨.release, v - 8 * n⟩ := by
  induction n with
  | zero => rfl
  | succ n ih =>
    rw [envTicks_succ, ih, envTick_release hen rfl]
    exact congrArg (Env.mk _) (Nat.sub_sub v (8 * n) 8)

/-- Slow Attack rises by 32 a tick below 2047 (R144). -/
theorem envTicks_attack (hrate : c.attackRate ≠ 15) {n : Nat} (hn : n ≤ 63) :
    envTicks c n ⟨.attack, 0⟩ = ⟨.attack, 32 * n⟩ := by
  induction n with
  | zero => rfl
  | succ n ih =>
    rw [envTicks_succ, ih (by omega), envTick_attack hen rfl, attackTick]
    simp only [if_neg hrate]
    rw [if_neg (by omega), Nat.mul_succ]

/-- Decay by a constant decrement: `n` ticks at decrement `d` from level `w + n * d`, where the level before each tick
lies in `256 * d + 1 .. 256 * (d + 1)` and the level after each is above the boundary of Sustain. -/
theorem envTicks_decay {d n w : Nat} (hd : 1 ≤ d) (hlow : 256 * d < w + d) (hhigh : w + n * d ≤ 256 * (d + 1))
    (hsustain : 256 * (c.sustainLevel + 1) ≤ w) : envTicks c n ⟨.decay, w + n * d⟩ = ⟨.decay, w⟩ := by
  induction n with
  | zero => simp [envTicks]
  | succ n ih =>
    rw [Nat.succ_mul] at hhigh
    have hdiv : (w + (n * d + d) - 1) / 256 = d := by
      rw [Nat.div_eq_iff (by decide)]
      omega
    have hlevel : expDec (w + (n * d + d)) = w + n * d := by
      rw [expDec_eq, hdiv]
      omega
    have habove : ¬ (w + n * d) / 256 ≤ c.sustainLevel := by
      rw [Nat.not_le, Nat.lt_div_iff_mul_lt (by decide)]
      omega
    rw [Nat.succ_mul, envTicks, envTick_decay hen rfl, decayTick_eq, hlevel, if_neg habove]
    exact ih (by omega)

/-- The tick of Decay that reaches the boundary enters Sustain (R145). -/
theorem envTick_decay_sustain {v w : Nat} (hw : expDec v = w) (hs : w / 256 ≤ c.sustainLevel) :
    envTick c ⟨.decay, v⟩ = ⟨.sustain, w⟩ := by
  rw [envTick_decay hen rfl, decayTick_eq, hw, if_pos hs]

/-- Decay goes on from the level it has reached, as in `envTicks_decay`. -/
theorem envTicks_decay_trans {e : Env} {d m n w : Nat} (hm : envTicks c m e = ⟨.decay, w + n * d⟩) (hd : 1 ≤ d)
    (hlow : 256 * d < w + d) (hhigh : w + n * d ≤ 256 * (d + 1)) (hsustain : 256 * (c.sustainLevel + 1) ≤ w) :
    envTicks c (m + n) e = ⟨.decay, w⟩ := by
  rw [envTicks_add, hm, envTicks_decay hen hd hlow hhigh hsustain]

/-- The table of R154, split at the last tick of Decay. Between two levels listed here the decrement is constant: it is
`d` from the level `256 * (d + 1)` down to `256 * d + 1`. -/
theorem decay_to_last_tick {n level : Nat}
    (hrow : (c.sustainLevel, n, level) ∈ [(0, 664, 255), (1, 408, 511), (2, 280, 766), (3, 195, 1021), (4, 131, 1276),
      (5, 80, 1531), (6, 37, 1788), (7, 1, 2040)]) :
    ∃ v, envTicks c (n - 1) ⟨.decay, 2047⟩ = ⟨.decay, v⟩ ∧ expDec v = level ∧ level / 256 ≤ c.sustainLevel := by
  have h36 (hs : c.sustainLevel ≤ 6) : envTicks c 36 ⟨.decay, 2047⟩ = ⟨.decay, 1795⟩ :=
    envTicks_decay (d := 7) (n := 36) hen (by decide) (by decide) (by decide) (by omega)
  have h37 (hs : c.sustainLevel ≤ 5) : envTicks c 37 ⟨.decay, 2047⟩ = ⟨.decay, 1788⟩ :=
    envTicks_decay_trans (d := 7) (n := 1) hen (h36 (by omega)) (by decide) (by decide) (by decide) (by omega)
  have h79 (hs : c.sustainLevel ≤ 5) : envTicks c 79 ⟨.decay, 2047⟩ = ⟨.decay, 1536⟩ :=
    envTicks_decay_trans (d := 6) (n := 42) hen (h37 (by omega)) (by decide) (by decide) (by decide) (by omega)
  have h130 (hs : c.sustainLevel ≤ 4) : envTicks c 130 ⟨.decay, 2047⟩ = ⟨.decay, 1281⟩ :=
    envTicks_decay_trans (d := 5) (n := 51) hen (h79 (by omega)) (by decide) (by decide) (by decide) (by omega)
  have h131 (hs : c.sustainLevel ≤ 3) : envTicks c 131 ⟨.decay, 2047⟩ = ⟨.decay, 1276⟩ :=
    envTicks_decay_trans (d := 5) (n := 1) hen (h130 (by omega)) (by decide) (by decide) (by decide) (by omega)
  have h194 (hs : c.sustainLevel ≤ 3) : envTicks c 194 ⟨.decay, 2047⟩ = ⟨.decay, 1024⟩ :=
    envTicks_decay_trans (d := 4) (n := 63) hen (h131 (by omega)) (by decide) (by decide) (by decide) (by omega)
  have h279 (hs : c.sustainLevel ≤ 2) : envTicks c 279 ⟨.decay, 2047⟩ = ⟨.decay, 769⟩ :=
    envTicks_decay_trans (d := 3) (n := 85) hen (h194 (by omega)) (by decide) (by decide) (by decide) (by omega)
  have h280 (hs : c.sustainLevel ≤ 1) : envTicks c 280 ⟨.decay, 2047⟩ = ⟨.decay, 766⟩ :=
    envTicks_decay_trans (d := 3) (n := 1) hen (h279 (by omega)) (by decide) (by decide) (by decide) (by omega)
  have h407 (hs : c.sustainLevel ≤ 1) : envTicks c 407 ⟨.decay, 2047⟩ = ⟨.decay, 512⟩ :=
    envTicks_decay_trans (d := 2) (n := 127) hen (h280 (by omega)) (by decide) (by decide) (by decide) (by omega)
  have h663 (hs : c.sustainLevel ≤ 0) : envTicks c 663 ⟨.decay, 2047⟩ = ⟨.decay, 256⟩ :=
    envTicks_decay_trans (d := 1) (n := 256) hen (h407 (by omega)) (by decide) (by decide) (by decide) (by omega)
  simp only [List.mem_cons, Prod.mk.injEq, List.not_mem_nil, or_false] at hrow
  rcases hrow with ⟨hs, rfl, rfl⟩ | ⟨hs, rfl, rfl⟩ | ⟨hs, rfl, rfl⟩ | ⟨hs, rfl, rfl⟩ | ⟨hs, rfl, rfl⟩ |
    ⟨hs, rfl, rfl⟩ | ⟨hs, rfl, rfl⟩ | ⟨hs, rfl, rfl⟩
  · exact ⟨_, h663 (by omega), by decide, by omega⟩
  · exact ⟨_, h407 (by omega), by decide, by omega⟩
  · exact ⟨_, h279 (by omega), by decide, by omega⟩
  · exact ⟨_, h194 (by omega), by decide, by omega⟩
  · exact ⟨_, h130 (by omega), by decide, by omega⟩
  · exact ⟨_, h79 (by omega), by decide, by omega⟩
  · exact ⟨_, h36 (by omega), by decide, by omega⟩
  · exact ⟨2047, rfl, by decide, by omega⟩

end

/-! ### The commands -/

/-- Settles O20: both write the record of the envelope alone. -/
theorem keyCommandsWriteTheEnvelopeAlone : Obligations.KeyCommandsWriteTheEnvelopeAlone := by
  unfold Obligations.KeyCommandsWriteTheEnvelopeAlone
  exact fun s => ⟨rfl, rfl⟩

/-- Settles O21, by the tick in Attack. -/
theorem attackTickRises : Obligations.AttackTickRises := by
  unfold Obligations.AttackTickRises
  intro s hr hen hp
  rw [exec_envTick hr, envTick_attack hen hp]
  rfl

/-- Settles O22: the level is `expDec` of the level before. -/
theorem decayTickFallsToTheSustainLevel : Obligations.DecayTickFallsToTheSustainLevel := by
  unfold Obligations.DecayTickFallsToTheSustainLevel
  intro s hr hen hp
  exact ⟨expDec s.env.level, expDec_toInt _, by rw [exec_envTick hr, envTick_decay hen hp, decayTick_eq]⟩

/-- Settles O23: held without a rate, else the level is `expDec` of the level before. -/
theorem sustainTickFallsOrHolds : Obligations.SustainTickFallsOrHolds := by
  unfold Obligations.SustainTickFallsOrHolds
  intro s hr hen hp
  rw [exec_envTick hr, envTick_sustain hen hp, sustainTick]
  refine ⟨fun h0 => ?held, fun hpos => ⟨expDec s.env.level, expDec_toInt _, by rw [if_pos hpos]⟩⟩
  case held => rw [if_neg (by omega), ← hp]

/-- Settles O25: refused by the status, and a disabled envelope does not change. -/
theorem envTickRefusedOrDisabled : Obligations.EnvTickRefusedOrDisabled := by
  unfold Obligations.EnvTickRefusedOrDisabled
  exact fun s => ⟨fun hr => if_pos hr, fun hr hen => by rw [exec_envTick hr, envTick_disabled hen]⟩

/-! ### Durations (R148, R154, R155) -/

/-- Settles O24: after `n` ticks the level is `v - 8 * n`. -/
theorem releaseReachesZeroInCeilingOfEighth : Obligations.ReleaseReachesZeroInCeilingOfEighth := by
  unfold Obligations.ReleaseReachesZeroInCeilingOfEighth
  intro s n hr hen hp
  have henv : envTicks s.cfg n s.env = ⟨.release, s.env.level - 8 * n⟩ := by
    rw [← envTicks_release hen, ← hp]
  refine ⟨_, repeatExec_envTick hr n, rfl, ?_⟩
  rw [henv]
  dsimp only
  exact ⟨rfl, by omega, by omega⟩

/-- Settles O26: fast Attack by its two ticks, slow Attack by `envTicks_attack` and the tick from level 2016. -/
theorem attackLastsTwoOrSixtyFourTicks : Obligations.AttackLastsTwoOrSixtyFourTicks := by
  unfold Obligations.AttackLastsTwoOrSixtyFourTicks
  intro s hr hen henv
  simp only [repeatExec_envTick hr, henv]
  refine ⟨fun hrate => ?fast, fun hrate => ⟨fun n hn => by rw [envTicks_attack hen hrate hn], ?slow⟩⟩
  case fast => simp [envTicks, envTick_attack hen, attackTick, hrate]
  case slow =>
    rw [envTicks_succ, envTicks_attack hen hrate (Nat.le_refl 63), envTick_attack hen rfl, attackTick, if_neg hrate]
    rfl

/-- Settles O27: Decay to the last tick of the row, and that tick. -/
theorem decayDurationTable : Obligations.DecayDurationTable := by
  unfold Obligations.DecayDurationTable
  intro s n level hr hen henv hrow
  obtain ⟨v, hlast, hlevel, hs⟩ := decay_to_last_tick hen hrow
  have hn : n = n - 1 + 1 := by
    simp only [List.mem_cons, Prod.mk.injEq, List.not_mem_nil, or_false] at hrow
    omega
  refine ⟨?_, _, repeatExec_envTick hr (n - 1), ?_⟩
  · rw [repeatExec_envTick hr, henv, hn, envTicks_succ, hlast, envTick_decay_sustain hen hlevel hs]
  · rw [henv, hlast]

/-- Settles O28: the phase graph, the fixed point and the range of the level. -/
theorem ticksNeverGoBack : Obligations.TicksNeverGoBack := by
  unfold Obligations.TicksNeverGoBack
  intro c e
  refine ⟨envTick_phase c e, ?_, envTick_level_le c e⟩
  cases hen : c.envEnabled with
  | false => exact envTick_disabled hen _
  | true => rw [envTick_release hen rfl]; rfl

/-! ### The gain (R152) -/

/-- Settles O29: the conversion is exact at 2047 and at 0, and less than 1 off elsewhere. -/
theorem gainScalesAndClamps : Obligations.GainScalesAndClamps := by
  unfold Obligations.GainScalesAndClamps
  intro P c e d hG
  have hoff (hen : c.envEnabled = false) : applyGain P c e d = clamp16 d := by simp [applyGain, hen]
  have hon (hen : c.envEnabled = true) :
      applyGain P c e d = clamp16 (P.gainRound (d * (e.level : Int)) 2047) := by simp [applyGain, hen]
  refine ⟨applyGain_inInt16 P c e d, hoff, fun hen hl => ?full, fun hen hl => ?silent,
    fun hen => ⟨_, hon hen, hG.near (d * e.level) 2047 (by decide)⟩⟩
  case full =>
    rw [hon hen, hl]
    exact congrArg clamp16 (hG.exact d 2047 (by decide))
  case silent =>
    have h0 := hG.exact 0 2047 (by decide)
    rw [zero_mul] at h0
    rw [hon hen, hl, Nat.cast_zero, mul_zero, h0]
    rfl

end Sys2Proof.Proofs

/-! # Proofs: the sequencer's commands (spec/42_stream.md) -/

namespace Sys2Proof.Proofs

open Sys2Proof.Machine Sys2Proof.Laws

/-! ### CONFIG and START -/

/-- Settles O30: the check of the ranges passes. -/
theorem configLatchesTheRecord : Obligations.ConfigLatchesTheRecord := by
  unfold Obligations.ConfigLatchesTheRecord
  exact fun s c hr hc => execConfig_eq_next.mpr ⟨hr, hc, rfl⟩

/-- A field outside its range fails the check (R26). -/
theorem cfgInRange_eq_false {addrW frameW : Nat} {c : Cfg}
    (h : 15 < c.attackRate ∨ 7 < c.decayRate ∨ 7 < c.sustainLevel ∨ 31 < c.sustainRate ∨ 2 ^ addrW ≤ c.loopStart ∨
      2 ^ frameW ≤ c.maxFrames) : cfgInRange addrW frameW c = false := by
  rw [← Bool.not_eq_true]
  intro hc
  simp only [cfgInRange, Bool.and_eq_true, decide_eq_true_eq] at hc
  omega

/-- Settles O31: the status is looked at first, then the ranges. -/
theorem configRefusesByName : Obligations.ConfigRefusesByName := by
  unfold Obligations.ConfigRefusesByName
  intro s c
  refine ⟨fun hr => if_pos hr, fun hr hc => ?_⟩
  simp [exec, execConfig, hr, cfgInRange_eq_false hc]

/-- Settles O32, by `exec_start`. -/
theorem startBeginsAStream : Obligations.StartBeginsAStream := by
  unfold Obligations.StartBeginsAStream
  exact exec_start

/-! ### STEP -/

/-- STEP of a RUNNING stream, where its fetch is defined, is one frame of the block it latches. -/
theorem exec_step_frameOf {s : State} (hr : s.seq.status = .running)
    (hfetch : s.seq.unit = 0 → s.seq.cursor + 9 ≤ s.mem.len) :
    ∃ b, Latches s b ∧ exec .step s = .next (frameOf params b s) := by
  obtain ⟨b, hb⟩ := exists_latches hfetch
  exact ⟨b, hb, streamStep_latched params hr hb⟩

/-- A latched block is the 9 bytes at the cursor (R175). -/
theorem read_of_latches {s : State} {b : Block} (hb : Latches s b) (hu : s.seq.unit = 0) {k : Nat} (hk : k < 9) :
    s.mem.read (s.seq.cursor + k) = b.toBytes[k]? := by
  have hblock := hb.1 hu
  by_cases hm : s.seq.cursor + 9 ≤ s.mem.len
  · obtain ⟨b', hb', hread⟩ := block_of_le hm
    cases hblock.symm.trans hb'
    exact hread k hk
  · rw [block_of_gt (Nat.lt_of_not_le hm)] at hblock
    cases hblock

/-- Settles O33: outside a stream STEP is quiet. -/
theorem stepIsQuietOutsideAStream : Obligations.StepIsQuietOutsideAStream := by
  unfold Obligations.StepIsQuietOutsideAStream
  exact fun s hr => streamStep_quiet params hr

/-- Settles O34: the frame is `frameOf` of the latched block. -/
theorem stepEmitsOneFrame : Obligations.StepEmitsOneFrame := by
  unfold Obligations.StepEmitsOneFrame
  intro s hr hfetch
  obtain ⟨b, hb, hstep⟩ := exec_step_frameOf hr hfetch
  exact ⟨_, b, hstep, fun hu k hk => read_of_latches hb hu hk, hb.2, rfl, rfl⟩

/-- Settles O35: the unit goes up by one modulo 16, and the cursor stays before unit 15. -/
theorem stepAdvancesTheUnit : Obligations.StepAdvancesTheUnit := by
  unfold Obligations.StepAdvancesTheUnit
  intro s hr hfetch
  obtain ⟨b, -, hstep⟩ := exec_step_frameOf hr hfetch
  have hunit : (frameOf params b s).seq.unit.val = (s.seq.unit.val + 1) % 16 := unit_succ_val s.seq.unit
  refine ⟨_, hstep, fun hu => ⟨by omega, frameOf_cursor_of_unit_ne fun h15 => ?_⟩, fun hu => by omega⟩
  simp [h15] at hu

/-- Settles O38: the kind of block end is `loopJump`, and the fetch check at the target decides. -/
theorem loopJumpKeepsHistoryAndEnvelope : Obligations.LoopJumpKeepsHistoryAndEnvelope := by
  unfold Obligations.LoopJumpKeepsHistoryAndEnvelope
  intro s hr hu hend hloop hen
  have hk : blockEndKind (params.layout s.blk.hdr) s.cfg.loopEnabled = .loopJump := by
    simp [blockEndKind, hend, hloop, hen]
  have hne : blockEndKind (params.layout s.blk.hdr) s.cfg.loopEnabled ≠ .finish := by simp [hk]
  have hcursor : nextCursor params (emitFrame params s) = s.cfg.loopStart := by simp [nextCursor, hu, hk]
  refine ⟨_, exec_step_unit15 hr hu, hcursor, fun hm => ?_, fun hm => ?_, ?_, rfl⟩
  · exact nextStatus_exhausted (s := emitFrame params s) hu hne (hcursor ▸ hm)
  · exact nextStatus_running_or_cap (s := emitFrame params s) hne (hcursor ▸ hm)
  · rw [← hu]; rfl

/-- Settles O39: after unit 15 the block that decides is the one latched before. -/
theorem frameCapComesAfterBlockEnd : Obligations.FrameCapComesAfterBlockEnd := by
  unfold Obligations.FrameCapComesAfterBlockEnd
  intro s hr hfetch
  obtain ⟨b, hb, hstep⟩ := exec_step_frameOf hr hfetch
  refine ⟨_, hstep, rfl, frameOf_status_eq.trans (if_congr ?_ rfl rfl)⟩
  rw [blockEndKind_eq_finish]
  refine and_congr_right fun hu => ?_
  rw [hb.2 (by simp [hu])]

/-- Settles O40: the latch is not defined there. -/
theorem fetchOutsideTheMemoryFaults : Obligations.FetchOutsideTheMemoryFaults := by
  unfold Obligations.FetchOutsideTheMemoryFaults
  intro s hr hu hm
  rcases streamStep_cases params s with ⟨hq, -⟩ | ⟨-, -, hs⟩ | ⟨-, s₁, hl, -⟩
  · exact absurd hr hq
  · exact hs
  · rw [latchBlock_eq_none.mpr ⟨hu, hm⟩] at hl
    cases hl

end Sys2Proof.Proofs

/-! # Proofs: RESET, the host's moves and the read port (spec/70_reset_and_hazards.md, spec/10_state.md R37) -/

namespace Sys2Proof.Proofs

open Sys2Proof.Machine Sys2Proof.Laws

variable {s t : State}

/-! ### RESET -/

/-- Settles O41: RESET writes the reset value of each register. -/
theorem resetRestoresThePowerOnState : Obligations.ResetRestoresThePowerOnState := by
  unfold Obligations.ResetRestoresThePowerOnState
  exact fun s => ⟨_, rfl, rfl, rfl, rfl, rfl, rfl, rfl, rfl, rfl, rfl, rfl⟩

/-- Settles O42: each value as it stands in `State.reset`. -/
theorem resetStateHoldsTheSpecValues : Obligations.ResetStateHoldsTheSpecValues := by
  unfold Obligations.ResetStateHoldsTheSpecValues
  exact ⟨rfl, rfl, rfl, rfl, rfl, rfl⟩

/-! ### The host's moves -/

/-- Settles O43: the decoder of a command never fails. -/
theorem stepRunsTheDecodedCommand : Obligations.StepRunsTheDecodedCommand := by
  unfold Obligations.StepRunsTheDecodedCommand
  intro s code cfgIn decIn waiting i hhost hdecode
  cases hdecode
  exact step_command hhost

/-- A presented memory reads as its bytes, and nothing beyond them (R50). -/
theorem ofBytes_read (bytes : List Byte) (a : Nat) : (Memory.ofBytes bytes).read a = bytes[a]? := by
  have hcell := cellsAt_cellsOfBytes bytes 0 a
  rw [Nat.zero_add] at hcell
  by_cases ha : a < bytes.length
  · simp [Memory.read, Memory.ofBytes, hcell, ha]
  · simp [Memory.read, Memory.ofBytes, ha]

/-- Settles O44: the memory is `Memory.ofBytes` of the bytes. -/
theorem presentedMemoryReadsBack : Obligations.PresentedMemoryReadsBack := by
  unfold Obligations.PresentedMemoryReadsBack
  intro s bytes waiting hhost hr hl
  refine ⟨{ s with host := waiting, mem := Memory.ofBytes bytes }, ?_, rfl, rfl, ofBytes_wf bytes,
    ofBytes_read bytes⟩
  rw [step_present hhost, presentMemory, if_neg hr, if_neg (Nat.not_lt.mpr hl)]

/-- Settles O45: no move is quiet, and a presented memory is refused by the status, then by its length. -/
theorem hostMovesOutsideTheRulesAreRefused : Obligations.HostMovesOutsideTheRulesAreRefused := by
  unfold Obligations.HostMovesOutsideTheRulesAreRefused
  intro s bytes waiting
  refine ⟨fun hhost => ?quiet, fun hhost hr => ?running, fun hhost hr hl => ?long⟩
  case quiet => simp [step, nextMove, hhost]
  case running => rw [step_present hhost, presentMemory, if_pos hr]
  case long => rw [step_present hhost, presentMemory, if_neg hr, if_pos hl]

/-- A command other than CONFIG and DECODE reads no port. -/
theorem decodeCommand_ports {code : BitVec 3} (hconfig : code ≠ 0b001) (hdecode : code ≠ 0b111) (c₁ c₂ : Cfg)
    (d₁ d₂ : List Byte) : decodeCommand code c₁ d₁ = decodeCommand code c₂ d₂ := by
  have hcode : code = 0 ∨ code = 2 ∨ code = 3 ∨ code = 4 ∨ code = 5 ∨ code = 6 := by
    revert code; decide
  rcases hcode with rfl | rfl | rfl | rfl | rfl | rfl <;> rfl

/-- Settles O46: the decoded command is the same. -/
theorem portsMatterOnlyToTheirCommand : Obligations.PortsMatterOnlyToTheirCommand := by
  unfold Obligations.PortsMatterOnlyToTheirCommand
  intro s code c₁ c₂ d₁ d₂ waiting
  refine ⟨fun hconfig hdecode => ?_, rfl, rfl⟩
  rw [step_command rfl, step_command rfl, decodeCommand_ports hconfig hdecode c₁ c₂ d₁ d₂]

/-! ### What an instruction leaves unchanged -/

/-- No instruction writes an input (R20, R36, R51). -/
theorem exec_inputs {i : Instr} (h : exec i s = .next t) :
    t.mem = s.mem ∧ t.addrW = s.addrW ∧ t.frameW = s.frameW ∧ t.host = s.host := by
  cases i with
  | brrF0 | brrF1 | brrF2 | brrF3 | reset | keyOn | keyOff => cases h; exact ⟨rfl, rfl, rfl, rfl⟩
  | config c =>
    obtain ⟨-, -, rfl⟩ := execConfig_eq_next.mp h
    exact ⟨rfl, rfl, rfl, rfl⟩
  | start =>
    cases (exec_start s).symm.trans h
    exact ⟨rfl, rfl, rfl, rfl⟩
  | step =>
    rcases streamStep_eq_next h with ⟨-, rfl⟩ | ⟨-, b, -, rfl⟩ <;> exact ⟨rfl, rfl, rfl, rfl⟩
  | envTick =>
    obtain ⟨-, rfl⟩ := execEnvTick_eq_next.mp h
    exact ⟨rfl, rfl, rfl, rfl⟩
  | decode bytes =>
    obtain ⟨-, b, -, rfl⟩ := execDecode_eq_next.mp h
    exact ⟨rfl, rfl, rfl, rfl⟩

/-- Settles O47, by `exec_inputs`. -/
theorem noCommandWritesTheMemory : Obligations.NoCommandWritesTheMemory := by
  unfold Obligations.NoCommandWritesTheMemory
  intro i s t h
  obtain ⟨hmem, hrest⟩ := exec_inputs h
  exact ⟨fun a => by rw [hmem], hmem, hrest⟩

/-- Settles O48: what each instruction completes with shows the registers it leaves. -/
theorem registersHaveTheirWriters : Obligations.RegistersHaveTheirWriters := by
  unfold Obligations.RegistersHaveTheirWriters
  intro i s t h hreset
  cases i with
  | brrF0 | brrF1 | brrF2 | brrF3 => cases h; simp
  | reset => exact absurd rfl hreset
  | config c => obtain ⟨-, -, rfl⟩ := execConfig_eq_next.mp h; simp
  | start => cases (exec_start s).symm.trans h; simp
  | step => rcases streamStep_eq_next h with ⟨-, rfl⟩ | ⟨-, b, -, rfl⟩ <;> simp [frameOf]
  | keyOn | keyOff => cases h; simp
  | envTick => obtain ⟨-, rfl⟩ := execEnvTick_eq_next.mp h; simp
  | decode bytes => obtain ⟨-, b, -, rfl⟩ := execDecode_eq_next.mp h; simp

/-- Settles O50: of the writers of SEQ and OUT only STEP is left, and it is quiet. -/
theorem terminalStatusStaysUntilStartOrReset : Obligations.TerminalStatusStaysUntilStartOrReset := by
  unfold Obligations.TerminalStatusStaysUntilStartOrReset
  intro i s t hterm h hstart hreset
  by_cases hstep : i = .step
  · subst hstep
    have hr : s.seq.status ≠ .running := fun hr => by simp [hr, isTerminal] at hterm
    cases (streamStep_quiet params hr).symm.trans h
    exact ⟨rfl, rfl⟩
  · obtain ⟨-, -, -, hseq, -, -⟩ := registersHaveTheirWriters i s t h hreset
    exact ⟨hseq hstart hstep, exec_other_out h hstart hreset hstep⟩

/-- Settles O51: a frame by the clamps, a block by `decodeUnits_ranges`. -/
theorem rangesHoldUnderEveryReading : Obligations.RangesHoldUnderEveryReading := by
  unfold Obligations.RangesHoldUnderEveryReading
  intro P s t h1 h2 hout
  refine ⟨fun h => ?frame,
    fun f d => ⟨decodeUnits_length P f d allUnits s.hist, decodeUnits_ranges P f d allUnits h1 h2⟩⟩
  case frame =>
    rcases streamStep_eq_next h with ⟨-, rfl⟩ | ⟨-, b, -, rfl⟩
    · exact ⟨h1, h2, hout⟩
    · exact ⟨clamp16_inInt16 _, h1, frameOf_out_range P b hout⟩

/-! ### The read port -/

/-- Each phase has its code (R24). -/
theorem phaseCode_iff (p : Phase) :
    (p = .attack ↔ phaseCode p = 0) ∧ (p = .decay ↔ phaseCode p = 1) ∧ (p = .sustain ↔ phaseCode p = 2) ∧
      (p = .release ↔ phaseCode p = 3) := by
  cases p <;> decide

/-- Each status has its code (R33). -/
theorem statusCode_iff (st : Status) :
    (st = .idle ↔ statusCode st = 0) ∧ (st = .running ↔ statusCode st = 1) ∧ (st = .ended ↔ statusCode st = 2) ∧
      (st = .cap ↔ statusCode st = 3) ∧ (st = .exhausted ↔ statusCode st = 4) := by
  cases st <;> decide

/-- Settles O52: the codes one by one, the other fields as they stand. -/
theorem readPortCodesAreFaithful : Obligations.ReadPortCodesAreFaithful := by
  unfold Obligations.ReadPortCodesAreFaithful
  exact fun s => ⟨phaseCode_iff s.env.phase, statusCode_iff s.seq.status,
    rfl, rfl, rfl, rfl, rfl, rfl, rfl, rfl, rfl, rfl⟩

end Sys2Proof.Proofs

/-! # Proofs: whole streams (spec/42_stream.md R185, R186)

A stream that is RUNNING has a frame left below its bound, so repeated STEPs end it; and the 16 STEPs of a block are
followed through the states in the middle of the block. -/

namespace Sys2Proof.Proofs

open Sys2Proof.Machine Sys2Proof.Laws

/-! ### The bound of a stream -/

/-- A stream that START has begun and STEPs have carried on, under this configuration and memory. -/
structure StreamOf (c : Cfg) (m : Memory) (s : State) : Prop where
  cfg      : s.cfg = c
  mem      : s.mem = m
  counters : StreamCounters s
  fetch    : FetchReady s
  started  : s.seq.status ≠ .idle
  cap      : s.seq.status = .cap → c.loopEnabled = true ∧ c.maxFrames ≤ s.seq.frames

theorem startStatus_ne_idle (s : State) : startStatus s ≠ .idle := by
  unfold startStatus
  split
  · simp
  · split <;> simp

theorem of_startStatus_cap {s : State} (h : startStatus s = .cap) :
    s.cfg.loopEnabled = true ∧ s.cfg.maxFrames = 0 := by
  unfold startStatus at h
  split at h
  · cases h
  · split at h
    · assumption
    · cases h

theorem streamOf_start (s : State) : StreamOf s.cfg s.mem ((freshStream s).setStatus (startStatus s)) where
  cfg := rfl
  mem := rfl
  counters := streamCounters_start s
  fetch := fetchReady_start s
  started := startStatus_ne_idle s
  cap := fun h => ⟨(of_startStatus_cap h).1, (of_startStatus_cap h).2.le⟩

section
variable {c : Cfg} {m : Memory} {s : State}

theorem streamOf_frameOf (h : StreamOf c m s) (b : Block) (hr : s.seq.status = .running) :
    StreamOf c m (frameOf params b s) where
  cfg := h.cfg
  mem := h.mem
  counters := streamCounters_frameOf h.counters params b hr
  fetch := fetchReady_frameOf params b (h.fetch hr)
  started := frameOf_status_ne_idle
  cap := fun hcap => h.cfg ▸ of_frameOf_cap hcap

/-- A stream with fewer frames than `bound` while it is RUNNING ends within the STEPs left to the bound. -/
theorem streamOf_ends {bound : Nat}
    (hbound : ∀ u, StreamOf c m u → u.seq.status = .running → u.seq.frames < bound)
    {left : Nat} (h : StreamOf c m s) (hleft : s.seq.frames + left = bound) :
    ∃ (u : State) (n : Nat), n ≤ left ∧ repeatExec .step n s = .next u ∧ StreamOf c m u ∧
      u.seq.status ≠ .running ∧ u.seq.frames = s.seq.frames + n := by
  induction left generalizing s with
  | zero => exact ⟨s, 0, Nat.le_refl 0, rfl, h, fun hr => by have := hbound s h hr; omega, rfl⟩
  | succ left ih =>
    by_cases hr : s.seq.status = .running
    · obtain ⟨b, -, hstep⟩ := exec_step_frameOf hr fun _ => h.fetch hr
      obtain ⟨u, n, hn, hrun, hu, hstop, hframes⟩ :=
        ih (streamOf_frameOf h b hr) (show s.seq.frames + 1 + left = bound by omega)
      refine ⟨u, n + 1, Nat.succ_le_succ hn, ?_, hu, hstop, hframes.trans ?_⟩
      · rw [repeatExec, hstep]
        exact hrun
      · show s.seq.frames + 1 + n = _
        omega
    · exact ⟨s, 0, Nat.zero_le _, rfl, h, hr, rfl⟩

/-- A started stream that is not RUNNING has a terminal status. -/
theorem streamOf_terminal (h : StreamOf c m s) (hr : s.seq.status ≠ .running) : isTerminal s.seq.status = true := by
  have hidle := h.started
  cases hst : s.seq.status with
  | idle => exact absurd hst hidle
  | running => exact absurd hst hr
  | ended | cap | exhausted => rfl

/-- Without looping a RUNNING stream has a block left for its frames: `9 * (frames / 16) + 9` is at most `L`. -/
theorem streamOf_frames_lt_straight (hl : c.loopEnabled = false) (h : StreamOf c m s)
    (hr : s.seq.status = .running) : s.seq.frames < 16 * (m.len / 9) := by
  have hcursor := h.counters.straight hr (h.cfg ▸ hl)
  have hfetch : s.seq.cursor + 9 ≤ m.len := h.mem ▸ h.fetch hr
  omega

/-- With looping a RUNNING stream is below `max_frames`. -/
theorem streamOf_frames_lt_looping (hl : c.loopEnabled = true) (h : StreamOf c m s)
    (hr : s.seq.status = .running) : s.seq.frames < c.maxFrames :=
  h.cfg ▸ h.counters.looping hr (h.cfg ▸ hl)

end

/-- START and then as many STEPs as the bound allows end the stream. -/
theorem start_steps_end (s : State) {bound : Nat}
    (hbound : ∀ u, StreamOf s.cfg s.mem u → u.seq.status = .running → u.seq.frames < bound) :
    ∃ (t u : State) (n : Nat), exec .start s = .next t ∧ n ≤ bound ∧ repeatExec .step n t = .next u ∧
      StreamOf s.cfg s.mem u ∧ isTerminal u.seq.status = true ∧ u.seq.frames = n := by
  obtain ⟨u, n, hn, hrun, hu, hr, hframes⟩ := streamOf_ends hbound (streamOf_start s) (Nat.zero_add bound)
  exact ⟨_, u, n, exec_start s, hn, hrun, hu, streamOf_terminal hu hr, hframes.trans (Nat.zero_add n)⟩

/-- Settles O57: the bound is 16 frames for each 9 bytes, and CAP needs looping. -/
theorem nonLoopingStreamsEnd : Obligations.NonLoopingStreamsEnd := by
  unfold Obligations.NonLoopingStreamsEnd
  intro s hl
  obtain ⟨t, u, n, hstart, hn, hrun, hu, hterm, hframes⟩ :=
    start_steps_end s fun u hu => streamOf_frames_lt_straight hl hu
  have hend : u.seq.status = .ended ∨ u.seq.status = .exhausted := by
    cases hst : u.seq.status with
    | idle | running => simp [hst, isTerminal] at hterm
    | ended => exact .inl rfl
    | exhausted => exact .inr rfl
    | cap => exact absurd (hu.cap hst).1 (by simp [hl])
  refine ⟨t, u, n, hstart, hn, hrun, hend, hframes, ?_⟩
  rw [← hframes, hu.counters.unit, hu.counters.atBoundary hend]
  rfl

/-- Settles O58: the bound is `max_frames`, and CAP comes at no fewer frames. -/
theorem loopingStreamsEnd : Obligations.LoopingStreamsEnd := by
  unfold Obligations.LoopingStreamsEnd
  intro s hl
  obtain ⟨t, u, n, hstart, hn, hrun, hu, hterm, hframes⟩ :=
    start_steps_end s fun u hu => streamOf_frames_lt_looping hl hu
  refine ⟨t, u, n, hstart, hn, hrun, hterm, hframes, fun hcap => Nat.le_antisymm hn ?_⟩
  exact hframes ▸ (hu.cap hcap).2

/-! ### The 16 STEPs of a block (R185) -/

/-- An instruction once more. -/
theorem repeatExec_succ_of_next {i : Instr} {n : Nat} {s t : State} (h : repeatExec i n s = .next t) :
    repeatExec i (n + 1) s = exec i t := by
  induction n generalizing s with
  | zero =>
    cases h
    simp only [repeatExec]
    cases exec i t <;> rfl
  | succ n ih =>
    rw [repeatExec] at h ⊢
    cases hs : exec i s with
    | next u => rw [hs] at h; exact ih h
    | fault r => simp [hs] at h
    | refused r => simp [hs] at h

section
variable (b : Block) (s : State)

/-- The first `k` frames of block `b`: each emission scaled with the level of its own tick. -/
def blockFrames (k : Nat) : List Int :=
  List.zipWith (fun j d => applyGain params s.cfg (envTicks s.cfg (j + 1) s.env) d) (List.range k)
    (decodeUnits params (params.layout b.hdr) b.data (allUnits.take k) s.hist).1

/-- The state before unit `i` of block `b`, in a stream that was in state `s` at the block's start. -/
def midBlock (i : Fin 16) : State :=
  { s with
    blk := b
    hist := historyAtUnit params (params.layout b.hdr) b.data s.hist i.val
    env := envTicks s.cfg i.val s.env
    out := s.out ++ blockFrames b s i.val
    seq := ⟨s.seq.cursor, i, s.seq.frames + i.val, .running⟩ }

/-- Frame `i` of a block is the emission of unit `i` under the level after `i + 1` ticks. -/
theorem blockFrames_succ (i : Fin 16) :
    blockFrames b s (i.val + 1) = blockFrames b s i.val ++
      [applyGain params s.cfg (envTicks s.cfg (i.val + 1) s.env)
        (decodeUnit params b.hdr b.data i (historyAtUnit params (params.layout b.hdr) b.data s.hist i.val)).1] := by
  have hlen : (allUnits.take i.val).length = i.val := by
    simp [allUnits, i.isLt.le]
  rw [blockFrames, decodeUnits_take_succ, List.range_succ,
    List.zipWith_append (by rw [decodeUnits_length, hlen, List.length_range])]
  rfl

/-- The frame of unit `i`: all but the sequencer is as before the next unit. -/
theorem frameOf_midBlock (i : Fin 16) :
    frameOf params b (midBlock b s i) = { s with
      blk := b
      hist := historyAtUnit params (params.layout b.hdr) b.data s.hist (i.val + 1)
      env := envTicks s.cfg (i.val + 1) s.env
      out := s.out ++ blockFrames b s (i.val + 1)
      seq := (frameOf params b (midBlock b s i)).seq } := by
  rw [blockFrames_succ, envTicks_succ, historyAtUnit_succ, ← List.append_assoc]
  rfl

/-- Before the last unit the sequencer moves to the next unit, where the frame cap does not cut the block short. -/
theorem frameOf_midBlock_seq {i : Fin 16} (hi : i ≠ 15)
    (hcap : s.cfg.loopEnabled = true → s.seq.frames + 16 ≤ s.cfg.maxFrames) :
    (frameOf params b (midBlock b s i)).seq = ⟨s.seq.cursor, i + 1, s.seq.frames + (i.val + 1), .running⟩ := by
  have hcursor : (frameOf params b (midBlock b s i)).seq.cursor = s.seq.cursor := frameOf_cursor_of_unit_ne hi
  have hstatus : (frameOf params b (midBlock b s i)).seq.status = .running := by
    rw [frameOf_status_eq, if_neg fun h => hi h.1, if_neg fun h => hi h.1, if_neg]
    rintro ⟨hl, hm⟩
    have h16 := hcap hl
    have hframes : s.cfg.maxFrames ≤ s.seq.frames + i.val + 1 := hm
    have hne : i.val ≠ 15 := fun hv => hi (Fin.ext hv)
    omega
  exact congrArg₂ (fun c st => (⟨c, i + 1, s.seq.frames + (i.val + 1), st⟩ : Seq)) hcursor hstatus

/-- Before the last unit the frame leads to the state before the next one. -/
theorem frameOf_midBlock_of_lt {k : Nat} (hk : k + 1 < 16)
    (hcap : s.cfg.loopEnabled = true → s.seq.frames + 16 ≤ s.cfg.maxFrames) :
    frameOf params b (midBlock b s ⟨k, by omega⟩) = midBlock b s ⟨k + 1, hk⟩ := by
  have hne : (⟨k, by omega⟩ : Fin 16) ≠ 15 := Fin.ne_of_val_ne (show k ≠ 15 by omega)
  have hunit : (⟨k, by omega⟩ : Fin 16) + 1 = ⟨k + 1, hk⟩ :=
    Fin.ext ((unit_succ_val _).trans (Nat.mod_eq_of_lt hk))
  rw [frameOf_midBlock, frameOf_midBlock_seq b s hne hcap, hunit]
  rfl

end

section
variable {b : Block} {s : State}

/-- At the block's start nothing has been decoded. -/
theorem midBlock_zero (hr : s.seq.status = .running) (hu : s.seq.unit = 0) :
    midBlock b s 0 = { s with blk := b } := by
  have hseq : (⟨s.seq.cursor, 0, s.seq.frames, .running⟩ : Seq) = s.seq := by rw [← hu, ← hr]
  simp [midBlock, hseq, blockFrames, historyAtUnit, decodeUnits, envTicks]

/-- The STEPs of a block, one after the other. -/
theorem repeatExec_step_block (hr : s.seq.status = .running) (hu : s.seq.unit = 0) (hb : Latches s b)
    (hcap : s.cfg.loopEnabled = true → s.seq.frames + 16 ≤ s.cfg.maxFrames) {k : Nat} (hk : k < 16) :
    repeatExec .step (k + 1) s = .next (frameOf params b (midBlock b s ⟨k, hk⟩)) := by
  induction k with
  | zero =>
    rw [repeatExec_succ_of_next (n := 0) rfl]
    have hstart : midBlock b s ⟨0, hk⟩ = { s with blk := b } := midBlock_zero hr hu
    rw [hstart]
    exact streamStep_latched params hr hb
  | succ k ih =>
    rw [repeatExec_succ_of_next (ih (by omega)), frameOf_midBlock_of_lt b s hk hcap]
    have hlatch : Latches (midBlock b s ⟨k + 1, hk⟩) b :=
      ⟨fun h => absurd (congrArg Fin.val h) (Nat.succ_ne_zero k), fun _ => rfl⟩
    exact streamStep_latched params rfl hlatch

end

/-- Settles O59: the state after unit 15 is that of the whole block. -/
theorem sixteenStepsDecodeTheBlockAtOnce : Obligations.SixteenStepsDecodeTheBlockAtOnce := by
  unfold Obligations.SixteenStepsDecodeTheBlockAtOnce
  intro s hr hu hfetch hcap
  obtain ⟨b, hb⟩ := exists_latches fun _ => hfetch
  have hunit : (15 : Fin 16) + 1 = 0 := by decide
  exact ⟨_, b, repeatExec_step_block hr hu hb hcap (k := 15) (by decide), hb.1 hu, frameOf_midBlock b s 15,
    hunit, rfl⟩

end Sys2Proof.Proofs
